-- ==== Sys2Proof/Word.lean ====
section
/-! DEFINITION. The two word types of the block: every value of the spec is an unsigned byte or an
unsigned half (spec/00_scope.md rule R10). -/

namespace Sys2Proof

/-- A byte: the unit of one bus exchange (R10). -/
abbrev Byte := BitVec 8

/-- A half: the width of a command frame, of an address operand and of a value operand (R8, R10). -/
abbrev Half := BitVec 16

end Sys2Proof
end

