-- ==== Sys2Proof/Syntax.lean ====
section
/-! DEFINITION. What the opcode table holds, as plain data: one constructor of `Instr` for each of the
twenty rows of spec/opcode_table.json (spec/30_encoding.md rule R99), and the two operand types of
`construct`. -/

namespace Sys2Proof

/-- `CFG.ORG`: the organization mode of an instance (spec/00_scope.md rule R7). -/
inductive Org where
  /-- 1024 units of 16 bits. -/
  | word16
  /-- 2048 units of 8 bits. -/
  | byte8
deriving DecidableEq, Repr

/-- `LineId`: the identifier of a chip-select line. R7 gives it no width, no range and no encoding and
no rule computes with it; the model only ever stores it and compares it. -/
structure LineId where
  tag : Nat
deriving DecidableEq, Repr

/-- The rows of the opcode table. The first seven are the host commands (R81), then the reset and
initialisation event (R180), then the twelve serial command frames (R95), each named after the bracket
it opens with the suffix `W` or `B` for its organization mode. -/
inductive Instr where
  /-- Host command code 0 (R112). -/
  | configureBus
  /-- Host command code 1 (R130). -/
  | enableWrite
  /-- Host command code 2 (R131). -/
  | disableWrite
  /-- Host command code 3 (R132). -/
  | eraseAll
  /-- Host command code 4 (R140). -/
  | writeValue (address value : Half)
  /-- Host command code 5 (R142). -/
  | readValue (address : Half)
  /-- Host command code 6 (R144). -/
  | eraseOne (address : Half)
  /-- The reset and initialisation event (R180); it has no command code. -/
  | construct (chipSelectLine : LineId) (organizationMode : Org)
  /-- Frame `0x1300`, the low eight bits not meaningful (R85 to R87, R130). -/
  | enableWriteW (x8 : BitVec 8)
  /-- Frame `0x2600`, the low nine bits not meaningful (R85 to R88, R130). -/
  | enableWriteB (x9 : BitVec 9)
  /-- Frame `0x1000` (R131). -/
  | disableWriteW (x8 : BitVec 8)
  /-- Frame `0x2000` (R131). -/
  | disableWriteB (x9 : BitVec 9)
  /-- Frame `0x1100` (R132). -/
  | eraseAllW (x8 : BitVec 8)
  /-- Frame `0x2200` (R132). -/
  | eraseAllB (x9 : BitVec 9)
  /-- Frame `0x1400 | A` (R140): the frame of the write bracket. -/
  | writeW (a10 : BitVec 10)
  /-- Frame `0x2800 | A` (R140). -/
  | writeB (a11 : BitVec 11)
  /-- Frame `0x1800 | A` (R142). -/
  | readW (a10 : BitVec 10)
  /-- Frame `0x3000 | A` (R142). -/
  | readB (a11 : BitVec 11)
  /-- Frame `0x1C00 | A` (R144). -/
  | eraseOneW (a10 : BitVec 10)
  /-- Frame `0x3800 | A` (R144). -/
  | eraseOneB (a11 : BitVec 11)
deriving DecidableEq, Repr

end Sys2Proof
end

