-- ==== Sys2Proof/Config.lean ====
section
/-! DEFINITION. The parameters of spec/00_scope.md rule R8, and the free values: constants without a
body that stand for what the spec leaves open. Nothing can evaluate a free value or prove a value of
it, so a claim that mentions one holds whatever it is. -/

namespace Sys2Proof

/-- `BUS_SPEED` as the bus controller's divisor field holds it (spec/10_state.md rule R33): the symbolic
value `SLOWEST`, or one of the values that only other bus users select. -/
inductive BusSpeed where
  /-- "slowest supported rate, ~125 kHz" (R8, R33, R196). -/
  | slowest
  /-- Any other divisor; the source names none, so they are only numbered. -/
  | other (code : Nat)
deriving DecidableEq, Repr, Inhabited

/-- The bit order field of the bus controller (R33). -/
inductive BitOrder where
  | msbFirst
  | lsbFirst
deriving DecidableEq, Repr, Inhabited

namespace Config

/-- `UNITS(ORG)`: the number of addressable units (R7, R8, R50). -/
def units : Org → Nat
  | .word16 => 1024
  | .byte8 => 2048

/-- `VW(ORG)`: the width of a value in bits (R8, R55). -/
def valueWidth : Org → Nat
  | .word16 => 16
  | .byte8 => 8

/-- `AW(ORG)`: the number of address bits that select a unit (R8, R51; spec/90_conflicts.md C1). -/
def addrWidth : Org → Nat
  | .word16 => 10
  | .byte8 => 11

/-- The size of the device array in bytes, the same in both organizations: 1024 times 16 bits or
2048 times 8 bits (R50). -/
def arrayBytes : Nat := 2048

/-- `BYTE_SHIFT`: the byte-organized mode shifts every opcode left by one bit (R8, R88;
spec/92_eei_decisions.md D5). -/
def byteShift : Bool := true

/-- `CS_ASSERTED_LEVEL`: the electrical level of an asserted chip-select, high (R8, R26; D6). -/
def csAssertedLevel : Bool := true

/-- What a byte of the reference device's array that nothing has written reads as. The spec lets a test
choose the start contents of the array (spec/20_memory.md rule R66).
DESIGN CHOICE, unsafe (log entry 5): all ones, the content of an erased unit in R71. -/
def background : Byte := 0xFF

/-- `DUMMY_TX`: the byte sent in the two data exchanges of `readValue`. No source gives it (R8, R115;
D8), so it is a constant without a body. -/
opaque dummyTx : Byte

/-- The byte received in an exchange that nothing else determines: a free draw, under no law
(spec/93_implementation_defined.md U2, U3). -/
opaque freeByte : Nat → Byte

/-- An unspecified 16-bit latch (spec/10_state.md rule R24; U4). -/
opaque freeHalf : Nat → Half

/-- An unspecified bit: a field of the bus controller, or the level of a line (R24, R36; U5, U18). -/
opaque freeBit : Nat → Bool

/-- An unspecified divisor field (R24; U5). -/
opaque freeSpeed : Nat → BusSpeed

/-- An unspecified bit-order field (R24; U5). -/
opaque freeOrder : Nat → BitOrder

end Config

end Sys2Proof
end

