-- ==== Sys2Proof/WellFormed.lean ====
section
/-! DEFINITION. Which instructions are well formed. The operand widths are in the types; the one thing
left to check is R87: the bits of a fixed frame that the source calls not meaningful are sent as zeros,
so a fixed frame with another value there is one the block never sends (R98). Every host command is
well formed for every value of its operands: "there is no illegal operand" (R97), and both values of
`organizationMode` and every line are legal for `construct` (R180). -/

namespace Sys2Proof

/-- The instruction is one the block can be given or can send (R87, R97, R98, R180). -/
def Instr.wellFormed : Instr → Bool
  | .configureBus => true
  | .enableWrite => true
  | .disableWrite => true
  | .eraseAll => true
  | .writeValue _ _ => true
  | .readValue _ => true
  | .eraseOne _ => true
  | .construct _ _ => true
  | .enableWriteW x8 => x8 == 0
  | .enableWriteB x9 => x9 == 0
  | .disableWriteW x8 => x8 == 0
  | .disableWriteB x9 => x9 == 0
  | .eraseAllW x8 => x8 == 0
  | .eraseAllB x9 => x9 == 0
  | .writeW _ => true
  | .writeB _ => true
  | .readW _ => true
  | .readB _ => true
  | .eraseOneW _ => true
  | .eraseOneB _ => true

end Sys2Proof
end

