-- ==== Sys2Proof/Decode.lean ====
section
/-! DEFINITION. The two encodings of the block (spec/30_encoding.md): the host command (R80, R81) and
the serial command frame (R84 to R89), with the reset event that has no code (R99). First the decoder,
total and refusing by name; then the frame decoder of a bus observer (R96); then the encoder; then the
reading of an opcode-table word. -/

namespace Sys2Proof

/-- What is presented to a decoder. The host interface of R42 is a set of ports, not a byte string, so
the three alternatives carry the ports themselves. -/
inductive Code where
  /-- `cmd.op`, `cmd.addr`, `cmd.value` (R42, R80). -/
  | host (op : BitVec 3) (addr value : Half)
  /-- The two straps of the reset event, `org` = 0 for `WORD16` and 1 for `BYTE8` (R42, R180). -/
  | reset (line : LineId) (org : BitVec 1)
  /-- A 16-bit serial command frame (R84). -/
  | frame (f : Half)
deriving DecidableEq, Repr

/-- Why a decoder refuses. -/
inductive DecodeError where
  /-- The reserved host command code 7 (R97). -/
  | reservedCommand
  /-- A frame that matches none of the twelve patterns (R98). -/
  | unknownFrame
deriving DecidableEq, Repr

/-- Decoding a host command (R81). Operand ports that the command does not read are ignored (R80). -/
def decodeHost (op : BitVec 3) (addr value : Half) : Except DecodeError Instr :=
  match op.toNat with
  | 0 => .ok .configureBus
  | 1 => .ok .enableWrite
  | 2 => .ok .disableWrite
  | 3 => .ok .eraseAll
  | 4 => .ok (.writeValue addr value)
  | 5 => .ok (.readValue addr)
  | 6 => .ok (.eraseOne addr)
  | _ => .error .reservedCommand

/-- The `org` strap of the reset event (R42). -/
def orgOfStrap (org : BitVec 1) : Org := if org = 0 then .word16 else .byte8

/-- The strap that selects an organization (R42). -/
def strapOfOrg : Org → BitVec 1
  | .word16 => 0
  | .byte8 => 1

/-- Decoding a serial frame by the twelve `match`/`mask` rows of the opcode table (R95, R99). No two rows
overlap, of one mode or of both, so the order of the tests does not matter. -/
def decodeFrameWord (f : Half) : Except DecodeError Instr :=
  if f &&& 0xFF00 = 0x1300 then .ok (.enableWriteW (f.extractLsb' 0 8))
  else if f &&& 0xFE00 = 0x2600 then .ok (.enableWriteB (f.extractLsb' 0 9))
  else if f &&& 0xFF00 = 0x1000 then .ok (.disableWriteW (f.extractLsb' 0 8))
  else if f &&& 0xFE00 = 0x2000 then .ok (.disableWriteB (f.extractLsb' 0 9))
  else if f &&& 0xFF00 = 0x1100 then .ok (.eraseAllW (f.extractLsb' 0 8))
  else if f &&& 0xFE00 = 0x2200 then .ok (.eraseAllB (f.extractLsb' 0 9))
  else if f &&& 0xFC00 = 0x1400 then .ok (.writeW (f.extractLsb' 0 10))
  else if f &&& 0xF800 = 0x2800 then .ok (.writeB (f.extractLsb' 0 11))
  else if f &&& 0xFC00 = 0x1800 then .ok (.readW (f.extractLsb' 0 10))
  else if f &&& 0xF800 = 0x3000 then .ok (.readB (f.extractLsb' 0 11))
  else if f &&& 0xFC00 = 0x1C00 then .ok (.eraseOneW (f.extractLsb' 0 10))
  else if f &&& 0xF800 = 0x3800 then .ok (.eraseOneB (f.extractLsb' 0 11))
  else .error .unknownFrame

/-- Decoding whatever is presented. Total; a refusal has a name. -/
def decode : Code → Except DecodeError Instr
  | .host op addr value => decodeHost op addr value
  | .reset line org => .ok (.construct line (orgOfStrap org))
  | .frame f => decodeFrameWord f

/-- The result of `decodeFrame` (R68, R96): the kind of a frame, with the unit address where it has one.
The address of a word-organized frame is `f[9:0]` with a zero above it. -/
inductive DeviceCommand where
  | enable
  | disable
  | eraseAll
  | write (a : BitVec 11)
  | read (a : BitVec 11)
  | eraseOne (a : BitVec 11)
  | unknown
deriving DecidableEq, Repr

/-- The group of the fixed frames, told apart by the two bits `SUB2` (R85, R96). -/
def fixedGroup (sub2 : BitVec 2) : DeviceCommand :=
  match sub2.toNat with
  | 3 => .enable
  | 0 => .disable
  | 1 => .eraseAll
  | _ => .unknown

/-- `decodeFrame(org, f)` of R96, the inverse of the encoder for a bus observer of one organization:
by bits 15:10 in `WORD16` and by bits 15:11 in `BYTE8`. -/
def decodeFrame (org : Org) (f : Half) : DeviceCommand :=
  match org with
  | .word16 =>
    match (f.extractLsb' 10 6).toNat with
    | 5 => .write ((f.extractLsb' 0 10).setWidth 11)
    | 6 => .read ((f.extractLsb' 0 10).setWidth 11)
    | 7 => .eraseOne ((f.extractLsb' 0 10).setWidth 11)
    | 4 => fixedGroup (f.extractLsb' 8 2)
    | _ => .unknown
  | .byte8 =>
    match (f.extractLsb' 11 5).toNat with
    | 5 => .write (f.extractLsb' 0 11)
    | 6 => .read (f.extractLsb' 0 11)
    | 7 => .eraseOne (f.extractLsb' 0 11)
    | 4 => fixedGroup (f.extractLsb' 9 2)
    | _ => .unknown

/-- Format `FW`, addressed: `Z3 ++ L ++ OP2 ++ A10` (R85). -/
def frameFW (op2 : BitVec 2) (a10 : BitVec 10) : Half := 0b0001#4 ++ op2 ++ a10

/-- Format `FW`, fixed: `Z3 ++ L ++ OP2 ++ SUB2 ++ X8` with `OP2` zero (R85). -/
def frameFWFixed (sub2 : BitVec 2) (x8 : BitVec 8) : Half := 0b000100#6 ++ sub2 ++ x8

/-- Format `FB`, addressed: `Z2 ++ L ++ OP2 ++ A11` (R85). -/
def frameFB (op2 : BitVec 2) (a11 : BitVec 11) : Half := 0b001#3 ++ op2 ++ a11

/-- Format `FB`, fixed: `Z2 ++ L ++ OP2 ++ SUB2 ++ X9` with `OP2` zero (R85). -/
def frameFBFixed (sub2 : BitVec 2) (x9 : BitVec 9) : Half := 0b00100#5 ++ sub2 ++ x9

/-- The encoder: host codes by R81, frames by the field tables of R85. Operand ports that a command does
not read are driven with zeros (they "may hold anything", R80). -/
def encode : Instr → Code
  | .configureBus => .host 0 0 0
  | .enableWrite => .host 1 0 0
  | .disableWrite => .host 2 0 0
  | .eraseAll => .host 3 0 0
  | .writeValue address value => .host 4 address value
  | .readValue address => .host 5 address 0
  | .eraseOne address => .host 6 address 0
  | .construct line org => .reset line (strapOfOrg org)
  | .enableWriteW x8 => .frame (frameFWFixed 0b11 x8)
  | .enableWriteB x9 => .frame (frameFBFixed 0b11 x9)
  | .disableWriteW x8 => .frame (frameFWFixed 0b00 x8)
  | .disableWriteB x9 => .frame (frameFBFixed 0b00 x9)
  | .eraseAllW x8 => .frame (frameFWFixed 0b01 x8)
  | .eraseAllB x9 => .frame (frameFBFixed 0b01 x9)
  | .writeW a10 => .frame (frameFW 0b01 a10)
  | .writeB a11 => .frame (frameFB 0b01 a11)
  | .readW a10 => .frame (frameFW 0b10 a10)
  | .readB a11 => .frame (frameFB 0b10 a11)
  | .eraseOneW a10 => .frame (frameFW 0b11 a10)
  | .eraseOneB a11 => .frame (frameFB 0b11 a11)

/-- An opcode-table word as ports. The table gives a host row three bits, a frame row sixteen and
`construct` none; in whole bytes that is 8, 16 and 0. A host command is the number with `op` in bits
2:0, `addr` in bits 18:3 and `value` in bits 34:19: R80 gives the three ports and no packing, so the
packing is the model's (DESIGN CHOICE, log entry 9). A word of no bits stands for the reset event with
both straps zero. -/
def codeOfTableWord (nbits w : Nat) : Code :=
  if nbits = 0 then .reset ⟨0⟩ 0
  else if nbits = 16 then .frame (BitVec.ofNat 16 w)
  else .host (BitVec.ofNat 3 w) (BitVec.ofNat 16 (w / 8)) (BitVec.ofNat 16 (w / 524288))

/-- The organization whose instances send this frame: bit 13 is set in every byte-organized pattern and
clear in every word-organized one (R85, R95). -/
def frameOrg (f : Half) : Org := if f.getLsbD 13 then .byte8 else .word16

/-- The instruction the decoder reads from an opcode-table word, `none` where it refuses. -/
def decodeTableWord (nbits w : Nat) : Option Instr :=
  match decode (codeOfTableWord nbits w) with
  | .ok i => some i
  | .error _ => none

end Sys2Proof
end

