-- ==== Sys2Proof/Machine/State.lean ====
section
/-! DEFINITION. The state of the block and of what stands at its interfaces, as plain data: every element
of spec/10_state.md rule R24, the reference device of spec/20_memory.md rule R66, and the moves of the
other agents (R20 to R23) that are still to come. -/

namespace Sys2Proof.Machine

/-- `CFG`: the Device Handle, written once by `construct` (R25). -/
structure Handle where
  /-- `CFG.CSLINE`. -/
  line : LineId
  /-- `CFG.ORG`. -/
  org : Org
deriving DecidableEq, Repr

/-- The chip-select output in logical terms (R26). -/
inductive ChipSelect where
  | asserted
  | deasserted
deriving DecidableEq, Repr

/-- A pin direction (R27). -/
inductive PinDir where
  | output
  | input
deriving DecidableEq, Repr

/-- `DIR`: the four pin directions (R27). -/
structure PinDirs where
  cs : PinDir
  clk : PinDir
  dout : PinDir
  din : PinDir
deriving DecidableEq, Repr

/-- `SEQ.OP`: the operation in flight (R24, R29). The last constructor is the model's own: the write
bracket alone, which R83(a) describes and which is no public operation. It is entered only by executing a
write frame as an instruction of its own (log entry 2). -/
inductive SeqOp where
  | none
  | configBus
  | enableWrite
  | disableWrite
  | eraseAll
  | writeValue
  | readValue
  | eraseOne
  | writeBracket
deriving DecidableEq, Repr

/-- `SEQ.SUB`: the position inside a byte transfer step (R29, R114). -/
inductive SubStep where
  | cfg
  | load
  | wait
  | take
deriving DecidableEq, Repr

/-- `SEQ.PHASE` (R28). -/
inductive Phase where
  | idle
  | xfer
deriving DecidableEq, Repr

/-- The sequencer position, the block's analogue of a program counter, with the phase (R28, R29). -/
structure Sequencer where
  /-- The operation in flight. -/
  op : SeqOp
  /-- The number of completed steps of its step list. -/
  step : Nat
  sub : SubStep
  phase : Phase
deriving DecidableEq, Repr

/-- The sequencer of an idle block (R29). -/
def Sequencer.atRest : Sequencer := { op := .none, step := 0, sub := .cfg, phase := .idle }

/-- The bus controller (R33 to R36): six configuration fields, two data registers, the
transfer-complete flag, and the two lines it drives. -/
structure BusController where
  en : Bool
  cpol : Bool
  cpha : Bool
  div : BusSpeed
  order : BitOrder
  mstr : Bool
  txd : Byte
  rxd : Byte
  done : Bool
  clk : Bool
  dout : Bool
deriving DecidableEq, Repr

/-- An event of the observation (R38). -/
inductive Event where
  /-- `Cs(l)`: chip-select written, `true` for asserted. -/
  | cs (level : Bool)
  /-- `Cfg`: one execution of `configureBus`. -/
  | cfg
  /-- `X(tx, rx)`: one completed byte exchange. -/
  | x (tx rx : Byte)
deriving DecidableEq, Repr

/-- A memory: the bytes that differ from `Config.background`, by rising address. The addresses are the
byte keys of `Machine/Memory.lean`. -/
abbrev Memory := List Host.Cell

/-- `RefDev`, the reference device of R66: a simulated responder, not a description of the chip (R72).
While `attached` is false nothing is on the bus and every received byte is the environment's free
choice (R22). -/
structure RefDev where
  attached : Bool
  /-- Its parameter `org`, which must equal the block's `CFG.ORG` (R66, R194). -/
  org : Org
  /-- Its parameter `ERASED`, in `BYTE8` the low byte (R71). -/
  erased : Half
  /-- `MEM`. -/
  mem : Memory
  /-- `WEL`, the write-enable latch. -/
  wel : Bool
  /-- `TB`, the bytes received since chip-select was last asserted. -/
  tb : List Byte
  /-- `SEL`. -/
  sel : Bool
deriving DecidableEq, Repr

/-- A move of an agent other than the block (R20). -/
inductive Input where
  /-- The host presents a command, or the reset event occurs, or (the model's own, log entry 2) a serial
  frame is presented as an instruction of its own (R21, R42). -/
  | present (c : Code)
  /-- The bus environment's step `BusComplete(rx)` (R22). -/
  | busComplete (rx : Byte)
  /-- Another bus user leaves the bus controller as given (R23). -/
  | busUser (b : BusController)
deriving DecidableEq, Repr

/-- The machine. Every element of R24 in the order of its table, then the model's own fields: `ended`,
`dev`, and the environment's `inputs`, `responsive` and `draws`. -/
structure State where
  /-- `construct` has happened (R166, R183). -/
  constructed : Bool
  /-- `CFG` (R25). -/
  cfg : Handle
  /-- `CS` (R26). -/
  cs : ChipSelect
  /-- `DIR` (R27). -/
  dir : PinDirs
  /-- `SEQ` (R28, R29). -/
  seq : Sequencer
  /-- `ADDR` (R30). -/
  addr : Half
  /-- `VALUE` (R30). -/
  value : Half
  /-- `FRAME` (R31). -/
  frame : Half
  /-- `RXHI` (R32). -/
  rxhi : Byte
  /-- `RXLO` (R32). -/
  rxlo : Byte
  /-- `RESULT` (R32). -/
  result : Half
  /-- `BUS` with `CLK` and `DOUT` (R33 to R36). -/
  bus : BusController
  /-- `TRACE` (R38). -/
  trace : List Event
  /-- The number of `rsp.done` events so far (R42, R121): the model's record of a host-side event. -/
  ended : Nat
  /-- What is attached to the bus (R66). -/
  dev : RefDev
  /-- The moves of the other agents still to come, oldest first. -/
  inputs : List Input
  /-- The premise `BusResponsive` (R167) as a fact about this environment: an exchange whose completion
  is not the next entry of `inputs` is completed all the same, with a free byte. -/
  responsive : Bool
  /-- How many free values have been used. -/
  draws : Nat
deriving DecidableEq, Repr

/-- Why a run stops. The block itself has no fault (R160, R173). -/
inductive Fault where
  /-- Raised by `step` when another bus user acts while an operation is in flight. R190: the byte on the
  wire and the byte received "would be undefined; the source gives no behaviour for it" (U6). Safe. -/
  | busConflict
deriving DecidableEq, Repr

/-- Why an instruction has no meaning in a state. -/
inductive Refusal where
  /-- An instruction that has no meaning in this model; raised by `exec` only. Safe. -/
  | notModelled (mnemonic : String)
  /-- Raised by a meaning of a frame row when the instance has the other organization, and by `step` for a
  presented frame that matches no pattern: R98, frames "never sent", to which the source gives
  "no meaning and no name". Safe. -/
  | reservedFrame
deriving DecidableEq, Repr

/-- The pin directions that `construct` sets (R27, R180). -/
def PinDirs.constructed : PinDirs := { cs := .output, clk := .output, dout := .output, din := .input }

/-- The bus controller at reset. R24: all of it is unspecified.
DESIGN CHOICE, unsafe (log entry 4): zero in every field. -/
def BusController.atReset : BusController :=
  { en := false, cpol := false, cpha := false, div := .other 0, order := .msbFirst, mstr := false,
    txd := 0, rxd := 0, done := false, clk := false, dout := false }

/-- The reference device at the start of a test (R66): write-protected, unselected, every unit erased.
DESIGN CHOICE (log entry 5): at reset it is not attached. -/
def RefDev.atReset : RefDev :=
  { attached := false, org := .word16, erased := 0xFFFF, mem := [], wel := false, tb := [], sel := false }

/-- The machine right after reset, that is after `construct` (R44, R180, R181): chip-select deasserted,
pins directed, sequencer idle, trace `Cs0`. The operands of `construct` are the line `⟨0⟩` and `WORD16`
(log entry 3); the latches and the bus controller, unspecified in R24, are zero (log entry 4); nothing
is on its way and the environment answers every exchange (log entries 5 and 6). -/
def State.reset : State :=
  { constructed := true
    cfg := { line := ⟨0⟩, org := .word16 }
    cs := .deasserted
    dir := PinDirs.constructed
    seq := Sequencer.atRest
    addr := 0, value := 0, frame := 0, rxhi := 0, rxlo := 0, result := 0
    bus := BusController.atReset
    trace := [.cs false]
    ended := 0
    dev := RefDev.atReset
    inputs := []
    responsive := true
    draws := 0 }

end Sys2Proof.Machine
end

