-- ==== Sys2Proof/Machine/Operands.lean ====
section
/-! DEFINITION. Operand assembly and the arithmetic of the encoder (spec/30_encoding.md rules R86 to R93):
splitting and joining bytes, the base opcodes, the shift of the byte-organized mode and the address
merge. -/

namespace Sys2Proof.Machine

/-- `hi8(h)` (R11, R93). -/
def hi8 (h : Half) : Byte := h.extractLsb' 8 8

/-- `lo8(h)` (R11, R93). -/
def lo8 (h : Half) : Byte := h.extractLsb' 0 8

/-- `hi ++ lo`, the first byte the more significant (R54, R93). -/
def joinBytes (hi lo : Byte) : Half := hi ++ lo

/-- `zext_16(b)` (R11, R93). -/
def zext16 (b : Byte) : Half := b.setWidth 16

/-- The six device commands of the opcode table (R86). -/
inductive FrameKind where
  | enable
  | disable
  | eraseAll
  | write
  | read
  | eraseOne
deriving DecidableEq, Repr

/-- The base opcode of a device command (R86). -/
def baseOpcode : FrameKind → Half
  | .enable => 0x1300
  | .disable => 0x1000
  | .eraseAll => 0x1100
  | .write => 0x1400
  | .read => 0x1800
  | .eraseOne => 0x1C00

/-- The frame carries an address (R84). -/
def addressed : FrameKind → Bool
  | .enable => false
  | .disable => false
  | .eraseAll => false
  | .write => true
  | .read => true
  | .eraseOne => true

/-- `shiftOrg(base)` (R88): unchanged in `WORD16`, shifted left by one bit in `BYTE8`. -/
def shiftOrg (org : Org) (base : Half) : Half :=
  match org with
  | .word16 => base
  | .byte8 => if Config.byteShift then base <<< 1 else base

/-- `mergeAddr(base, A)` (R89): all sixteen bits of the address take part. -/
def mergeAddr (org : Org) (base a : Half) : Half := shiftOrg org base ||| a

/-- The frame of a bracket (R87, R89). -/
def frameOf (kind : FrameKind) (org : Org) (a : Half) : Half :=
  if addressed kind then mergeAddr org (baseOpcode kind) a else shiftOrg org (baseOpcode kind)

/-- An address is valid when it names a unit of the array (R51). -/
def validAddress (org : Org) (a : Half) : Bool := decide (a.toNat < Config.units org)

/-- The value that `readValue` returns, from the two bytes of its data phase (R32, R142). -/
def assembleResult (org : Org) (rxhi rxlo : Byte) : Half :=
  match org with
  | .word16 => joinBytes rxhi rxlo
  | .byte8 => zext16 rxlo

/-- The bytes of a written value, in the order sent (R54, R90). -/
def valueBytes (org : Org) (v : Half) : List Byte :=
  match org with
  | .word16 => [hi8 v, lo8 v]
  | .byte8 => [lo8 v]

end Sys2Proof.Machine
end

