-- ==== Sys2Proof/Machine/Memory.lean ====
section
/-! DEFINITION. The array of the reference device (spec/20_memory.md rules R50, R51, R66), as a list of
bytes in one canonical form, and the two unit accesses `MemRead` and `MemWrite` of R11.
In `WORD16` unit `A` is the two byte keys `2A` (high byte) and `2A + 1` (low byte), in `BYTE8` it is the
key `A`. How the units of one mode relate to those of the other is not in the source (N12) and no
instance can observe it; the keys are the model's own (DESIGN CHOICE, log entry 5). -/

namespace Sys2Proof.Machine

/-- One byte of the array; an unlisted key reads as `Config.background`. -/
def Memory.read : Memory → Nat → Byte
  | [], _ => Config.background
  | c :: rest, k => if k = c.1 then c.2 else Memory.read rest k

/-- Writing one byte keeps the list rising and free of entries that equal the background. -/
def Memory.write : Memory → Nat → Byte → Memory
  | [], k, v => if v = Config.background then [] else [(k, v)]
  | c :: rest, k, v =>
    if k < c.1 then (if v = Config.background then c :: rest else (k, v) :: c :: rest)
    else if k = c.1 then (if v = Config.background then rest else (k, v) :: rest)
    else c :: Memory.write rest k v

/-- The canonical form: keys strictly rising and inside the array, no entry equal to the background.
R66 gives an array of units; that it is held as such a list is a DESIGN CHOICE (log entry 5). -/
def Memory.wf (m : Memory) : Bool :=
  decide (m.Pairwise fun a b => a.1 < b.1) &&
    m.all fun c => decide (c.1 < Config.arrayBytes) && decide (c.2 ≠ Config.background)

/-- The memory in which key `k` holds `f k`, for every key of the array. -/
def Memory.filled (f : Nat → Byte) : Memory :=
  (List.range Config.arrayBytes).filterMap fun k =>
    if f k = Config.background then none else some (k, f k)

/-- The byte key of the high byte of a `WORD16` unit; its low byte is the next key. -/
def wordKey (a : BitVec 11) : Nat := 2 * (a.toNat % 1024)

/-- The byte key of a `BYTE8` unit. -/
def byteKey (a : BitVec 11) : Nat := a.toNat

/-- The byte keys of unit `a`. -/
def unitKeys (org : Org) (a : BitVec 11) : List Nat :=
  match org with
  | .word16 => [wordKey a, wordKey a + 1]
  | .byte8 => [byteKey a]

/-- `MemRead(a, VW)`, zero-extended to 16 bits (R11, R69). -/
def memRead (org : Org) (m : Memory) (a : BitVec 11) : Half :=
  match org with
  | .word16 => joinBytes (m.read (wordKey a)) (m.read (wordKey a + 1))
  | .byte8 => zext16 (m.read (byteKey a))

/-- `MemWrite(a, VW, v)`; in `BYTE8` the value is `v[7:0]` (R11, R70). -/
def memWrite (org : Org) (m : Memory) (a : BitVec 11) (v : Half) : Memory :=
  match org with
  | .word16 => (m.write (wordKey a) (hi8 v)).write (wordKey a + 1) (lo8 v)
  | .byte8 => m.write (byteKey a) (lo8 v)

/-- Every unit becomes `v` (R70, `ERASE_ALL`). -/
def memFill (org : Org) (v : Half) : Memory :=
  match org with
  | .word16 => Memory.filled fun k => if k % 2 = 0 then hi8 v else lo8 v
  | .byte8 => Memory.filled fun _ => lo8 v

end Sys2Proof.Machine
end

