-- ==== Sys2Proof/Machine/Device.lean ====
section
/-! DEFINITION. The reference device `RefDev` (spec/20_memory.md rules R66 to R72): how it reacts to the
events of the wire and which byte it answers. It is this spec's responder, not the chip (R72). -/

namespace Sys2Proof.Machine

/-- The command in the bytes received so far, once there are two (R68). -/
def RefDev.command (d : RefDev) : Option DeviceCommand :=
  match d.tb with
  | hi :: lo :: _ => some (decodeFrame d.org (joinBytes hi lo))
  | _ => none

/-- The byte received in the exchange that is under way (R69): in the data phase of a read the device's,
otherwise the free draw. `TB` stands as before this exchange. -/
def RefDev.answer (d : RefDev) (draw : Byte) : Byte :=
  if d.attached && d.sel then
    match d.command with
    | some (.read a) =>
      match d.org with
      | .word16 =>
        if d.tb.length = 2 then hi8 (memRead .word16 d.mem a)
        else if d.tb.length = 3 then lo8 (memRead .word16 d.mem a)
        else draw
      | .byte8 => if d.tb.length = 3 then lo8 (memRead .byte8 d.mem a) else draw
    | _ => draw
  else draw

/-- The value bytes of a write transaction, as a half, if they have all arrived (R70). -/
def RefDev.writeData (d : RefDev) : Option Half :=
  match d.org, d.tb with
  | .word16, _ :: _ :: hi :: lo :: _ => some (joinBytes hi lo)
  | .byte8, _ :: _ :: b :: _ => some (zext16 b)
  | _, _ => none

/-- Committing the transaction when chip-select is deasserted (R70). -/
def RefDev.commit (d : RefDev) : RefDev :=
  match d.command with
  | some .enable => { d with wel := true }
  | some .disable => { d with wel := false }
  | some .eraseAll => if d.wel then { d with mem := memFill d.org d.erased } else d
  | some (.write a) =>
    if d.wel then
      match d.writeData with
      | some v => { d with mem := memWrite d.org d.mem a v }
      | none => d
    else d
  | some (.eraseOne a) => if d.wel then { d with mem := memWrite d.org d.mem a d.erased } else d
  | some (.read _) => d
  | some .unknown => d
  | none => d

/-- The reaction to one event (R67). `Cfg` is not on the wire (R38). -/
def RefDev.react (d : RefDev) (e : Event) : RefDev :=
  if d.attached then
    match e with
    | .cs true => { d with sel := true, tb := [] }
    | .cs false => if d.sel then { d.commit with sel := false } else d
    | .x tx _ => if d.sel then { d with tb := d.tb ++ [tx] } else d
    | .cfg => d
  else d

end Sys2Proof.Machine
end

