-- ==== Sys2Proof/Machine/Flags.lean ====
section
/-! DEFINITION. The flags. The block has two (spec/10_state.md rules R28, R35): `SEQ.PHASE` and the
transfer-complete flag `BUS.DONE`; it has no condition code and no arithmetic flag (R35, R93). The
host-visible `busy` and `rsp.done` (R42) are computed here from the sequencer. -/

namespace Sys2Proof.Machine

/-- An operation is in flight. Before `construct` nothing is (R44). -/
def State.inFlight (s : State) : Bool := s.constructed && decide (s.seq.op ≠ .none)

/-- `busy` of R42. -/
def State.busy (s : State) : Bool := s.inFlight

/-- The block takes a command: constructed and idle (R21, R117, R166). -/
def State.ready (s : State) : Bool := s.constructed && decide (s.seq.op = .none)

/-- `rsp.result` of R42. -/
def State.rspResult (s : State) : Half := s.result

/-- `rsp.done` occurred between two states (R42, R121). -/
def rspDone (s t : State) : Bool := decide (s.ended < t.ended)

/-- `S.BUS.DONE <- 0`, with `S.BUS.TXD <- tx`: loading the transmit register starts an exchange and
clears the flag (R34, R35, R114). -/
def BusController.startExchange (b : BusController) (tx : Byte) : BusController :=
  { b with txd := tx, done := false }

/-- `S.BUS.DONE <- 1`, with `S.BUS.RXD <- rx` (R22, R35). -/
def BusController.finishExchange (b : BusController) (rx : Byte) : BusController :=
  { b with rxd := rx, done := true }

/-- `S.SEQ.PHASE` is set and cleared only by a byte transfer (R28). -/
def Sequencer.setPhase (q : Sequencer) (p : Phase) : Sequencer := { q with phase := p }

/-- The level of the chip-select line (R26). -/
def ChipSelect.level : ChipSelect → Bool
  | .asserted => Config.csAssertedLevel
  | .deasserted => !Config.csAssertedLevel

end Sys2Proof.Machine
end

