-- ==== Sys2Proof/Machine/Ops.lean ====
section
/-! DEFINITION. The shared operations of the block: events, the chip-select steps, `configureBus`, the
four sub-steps of a byte transfer, and the environment's answer (spec/40_transport.md).
There is no operation that takes an exception and none that returns from one: "The block raises no
synchronous exception" and "There is no trap entry" (spec/60_exceptions.md rules R160, R162, R165). -/

namespace Sys2Proof.Machine

/-- `emit e` (R11, R38); the attached device reacts to the events of the wire in order (R66). -/
def emit (e : Event) (s : State) : State :=
  { s with trace := s.trace ++ [e], dev := s.dev.react e }

/-- `wire(TRACE)`: the trace without its `Cfg` events (R38). -/
def wire (es : List Event) : List Event := es.filter fun e => decide (e ≠ .cfg)

/-- Step `CSA(e)` (R110): the frame is latched and chip-select asserted. -/
def assertCs (f : Half) (s : State) : State :=
  emit (.cs true) { s with frame := f, cs := .asserted }

/-- Step `CSD` (R111). -/
def deassertCs (s : State) : State :=
  emit (.cs false) { s with cs := .deasserted }

/-- What `configureBus` leaves in the bus controller (R112); `TXD`, `RXD` and `DONE` are not touched, and
the clock idles low (R36; DEDUCED, log entry 26). R36 leaves the level of `DOUT` between exchanges open: that
it is held here, and through every other step, until an exchange or another agent sets it anew is a DESIGN
CHOICE (unsafe, log entry 28). -/
def BusController.configured (b : BusController) : BusController :=
  { b with cpol := false, cpha := false, div := .slowest, order := .msbFirst, mstr := true, en := true,
           clk := false }

/-- `configureBus()` (R112). -/
def configureBus (s : State) : State :=
  emit .cfg { s with bus := s.bus.configured }

/-- Sub-step `CFG` of `transferByte` (R114). -/
def xferConfigure (s : State) : State :=
  let t := configureBus s
  { t with seq := { t.seq with sub := .load } }

/-- Sub-step `LOAD` (R114). From here until the exchange completes the two lines are in motion, so their
levels are free values (R36; U18), one for each line, held while the exchange lasts (log entries 12 and 28). -/
def xferLoad (tx : Byte) (s : State) : State :=
  { s with
    bus := { s.bus.startExchange tx with clk := Config.freeBit s.draws, dout := Config.freeBit (s.draws + 1) }
    seq := { s.seq.setPhase .xfer with sub := .wait }
    draws := s.draws + 2 }

/-- The environment's step `BusComplete`, with the byte `draw` shifted in unless the attached device
answers (R22, R69). Afterwards the clock is low again and data-out is at no stated level (R36): a free value,
drawn here once and held until the next `LOAD` (log entries 12 and 28). -/
def busComplete (draw : Byte) (s : State) : State :=
  { s with
    bus := { s.bus.finishExchange (s.dev.answer draw) with clk := false, dout := Config.freeBit s.draws }
    draws := s.draws + 1 }

/-- The environment's answer to the exchange under way, if it gives one: the completion that is next in
`inputs`, or, from a responsive environment, one with a free byte (R22, R167). -/
def environmentAnswer (s : State) : Option State :=
  match s.inputs with
  | .busComplete rx :: rest => some (busComplete rx { s with inputs := rest })
  | _ =>
    if s.responsive then some (busComplete (Config.freeByte s.draws) { s with draws := s.draws + 1 })
    else none

/-- Sub-step `TAKE` (R114): the exchange is over and `X(tx, rx)` is recorded. -/
def xferTake (tx : Byte) (s : State) : State :=
  emit (.x tx s.bus.rxd) { s with seq := { s.seq.setPhase .idle with sub := .cfg } }

/-- What became of a step: it completed, or the block waits in it for an exchange that the environment
has not completed (R164). -/
inductive Progress where
  | completed (s : State)
  | waiting (s : State)
deriving DecidableEq, Repr

/-- Sub-steps `WAIT` and `TAKE` (R114). The wait has no bound and no exit but `BUS.DONE = 1` (R164). -/
def xferFinish (tx : Byte) (s : State) : Progress :=
  if s.bus.done then .completed (xferTake tx s)
  else
    match environmentAnswer s with
    | some t => .completed (xferTake tx t)
    | none => .waiting s

/-- `transferByte(tx)` from the sub-step the sequencer stands at (R114). The received byte is left in
`BUS.RXD`. -/
def transferByte (tx : Byte) (s : State) : Progress :=
  match s.seq.sub with
  | .cfg => xferFinish tx (xferLoad tx (xferConfigure s))
  | .load => xferFinish tx (xferLoad tx s)
  | .wait => xferFinish tx s
  | .take => .completed (xferTake tx s)

/-- `S.ADDR <- addr` (R30, R117). -/
def latchAddr (a : Half) (s : State) : State := { s with addr := a }

/-- `S.VALUE <- value` (R30, R117). -/
def latchValue (v : Half) (s : State) : State := { s with value := v }

/-- `S.RXHI` takes the received byte (R32, R115). -/
def latchRxHi (s : State) : State := { s with rxhi := s.bus.rxd }

/-- `S.RXLO` takes the received byte (R32, R115). -/
def latchRxLo (s : State) : State := { s with rxlo := s.bus.rxd }

/-- `RES`: the result of a read (R142). -/
def latchResult (s : State) : State :=
  { s with result := assembleResult s.cfg.org s.rxhi s.rxlo }

/-- Taking a command (R117): the sequencer starts on it. The operand latches are the caller's. -/
def takeCommand (op : SeqOp) (s : State) : State :=
  { s with seq := { s.seq with op := op, step := 0, sub := .cfg } }

/-- A completed step (R29). -/
def nextStep (s : State) : State :=
  { s with seq := { s.seq with step := s.seq.step + 1, sub := .cfg } }

/-- The end of an operation (R121): the sequencer is idle and `rsp.done` occurs. -/
def endOperation (s : State) : State :=
  { s with seq := { s.seq with op := .none, step := 0, sub := .cfg }, ended := s.ended + 1 }

end Sys2Proof.Machine
end

