-- ==== Sys2Proof/Machine/Construct.lean ====
section
/-! DEFINITION. The reset and initialisation event (spec/70_reset_and_hazards.md rules R180 to R183). -/

namespace Sys2Proof.Machine

/-- The bus controller after `construct`: all of it unspecified, so a free value in every field, the
`n`-th and on (R24, R180; U5). -/
def unspecifiedBus (n : Nat) : BusController :=
  { en := Config.freeBit n, cpol := Config.freeBit (n + 1), cpha := Config.freeBit (n + 2)
    div := Config.freeSpeed n, order := Config.freeOrder n, mstr := Config.freeBit (n + 3)
    txd := Config.freeByte n, rxd := Config.freeByte (n + 1), done := Config.freeBit (n + 4)
    clk := Config.freeBit (n + 5), dout := Config.freeBit (n + 6) }

/-- What `construct` writes (R180). The data latches are unspecified afterwards (U4); the trace starts
with `Cs0`, and the line going low is on the wire for the attached device. -/
def constructed (line : LineId) (org : Org) (s : State) : State :=
  emit (.cs false)
    { s with
      constructed := true
      cfg := { line := line, org := org }
      dir := PinDirs.constructed
      cs := .deasserted
      seq := Sequencer.atRest
      trace := []
      addr := Config.freeHalf s.draws
      value := Config.freeHalf (s.draws + 1)
      frame := Config.freeHalf (s.draws + 2)
      result := Config.freeHalf (s.draws + 3)
      rxhi := Config.freeByte (s.draws + 2)
      rxlo := Config.freeByte (s.draws + 3)
      bus := unspecifiedBus s.draws
      ended := 0
      draws := s.draws + 7 }

/-- `construct(line, org)` (R180): the initial event. A second one is refused, which is no state change
(R183). -/
def execConstruct (line : LineId) (org : Org) (s : State) : Host.Outcome State Fault Refusal :=
  if s.constructed then .next s else .next (constructed line org s)

end Sys2Proof.Machine
end

