-- ==== Sys2Proof/Machine/Sequencing.lean ====
section
/-! DEFINITION. Sequencing (spec/40_transport.md rules R117 to R121): the step list of every operation,
the performance of a step, and the run of an operation from wherever the sequencer stands.
R29 lets a model take each operation as one composite step, "provided it produces the same trace and can
express the stuck state of a byte transfer that never completes": `runOperation` is that composite step,
it stops inside `WAIT` when the environment has no answer, and `Machine/Micro.lean` holds the
step-by-step sequencer it stands for. -/

namespace Sys2Proof.Machine

/-- The byte expression of a `TX` step (R120). -/
inductive TxByte where
  | frameHi
  | frameLo
  | valueHi
  | valueLo
deriving DecidableEq, Repr

/-- The destination of an `RX` step (R115). -/
inductive RxLatch where
  | rxhi
  | rxlo
deriving DecidableEq, Repr

/-- A step of a step list (R120). -/
inductive SeqStep where
  | cfgb
  | csa (kind : FrameKind)
  | tx (e : TxByte)
  | rx (d : RxLatch)
  | csd
  | res
deriving DecidableEq, Repr

/-- The four steps of a bracket that sends a frame and nothing else (R118, R120). -/
def frameBracket (kind : FrameKind) : List SeqStep :=
  [.csa kind, .tx .frameHi, .tx .frameLo, .csd]

/-- The write bracket of `writeValue` (R120, R140): the high byte of the value in `WORD16` only. -/
def writeBracket : Org → List SeqStep
  | .word16 => [.csa .write, .tx .frameHi, .tx .frameLo, .tx .valueHi, .tx .valueLo, .csd]
  | .byte8 => [.csa .write, .tx .frameHi, .tx .frameLo, .tx .valueLo, .csd]

/-- The step list of an operation (R120). -/
def stepList (op : SeqOp) (org : Org) : List SeqStep :=
  match op with
  | .none => []
  | .configBus => [.cfgb]
  | .enableWrite => frameBracket .enable
  | .disableWrite => frameBracket .disable
  | .eraseAll => frameBracket .eraseAll
  | .writeValue => frameBracket .enable ++ writeBracket org ++ frameBracket .disable
  | .readValue => [.csa .read, .tx .frameHi, .tx .frameLo, .rx .rxhi, .rx .rxlo, .csd, .res]
  | .eraseOne => frameBracket .eraseOne
  | .writeBracket => writeBracket org

/-- The byte a `TX` step sends (R120). -/
def txByte (e : TxByte) (s : State) : Byte :=
  match e with
  | .frameHi => hi8 s.frame
  | .frameLo => lo8 s.frame
  | .valueHi => hi8 s.value
  | .valueLo => lo8 s.value

/-- The byte a transfer step sends, and `none` for a step that transfers nothing (R115). -/
def SeqStep.sends (st : SeqStep) (s : State) : Option Byte :=
  match st with
  | .tx e => some (txByte e s)
  | .rx _ => some Config.dummyTx
  | .cfgb => none
  | .csa _ => none
  | .csd => none
  | .res => none

/-- What a step keeps of the byte its exchange received: an `RX` step latches it, a `TX` step discards
it (R32, R115). -/
def SeqStep.keep (st : SeqStep) (s : State) : State :=
  match st with
  | .rx .rxhi => latchRxHi s
  | .rx .rxlo => latchRxLo s
  | .tx _ => s
  | .cfgb => s
  | .csa _ => s
  | .csd => s
  | .res => s

/-- A step that transfers nothing (R110 to R112, R142). -/
def SeqStep.act (st : SeqStep) (s : State) : State :=
  match st with
  | .cfgb => configureBus s
  | .csa kind => assertCs (frameOf kind s.cfg.org s.addr) s
  | .csd => deassertCs s
  | .res => latchResult s
  | .tx _ => s
  | .rx _ => s

/-- Performing one step of a step list to its end, or to the wait for an exchange (R110 to R116). -/
def performStep (st : SeqStep) (s : State) : Progress :=
  match st.sends s with
  | some tx =>
    match transferByte tx s with
    | .completed t => .completed (st.keep t)
    | .waiting t => .waiting t
  | none => .completed (st.act s)

/-- Performing steps in order, none skipped and none repeated, until the list is done or an exchange
does not complete (R29, R119, R121, R164). -/
def runSteps : List SeqStep → State → State
  | [], s => endOperation s
  | st :: rest, s =>
    match performStep st s with
    | .completed t => runSteps rest (nextStep t)
    | .waiting t => t

/-- The run of the operation in flight from where the sequencer stands. -/
def runOperation (s : State) : State :=
  runSteps ((stepList s.seq.op s.cfg.org).drop s.seq.step) s

/-- A command in a state that takes it is performed; in any other it is refused, which is no state change
and no event, "as if it had not been presented" (R117, R166). `latched` is `s` with the operand latches
the command writes. -/
def issue (op : SeqOp) (latched s : State) : Host.Outcome State Fault Refusal :=
  if s.ready then .next (runOperation (takeCommand op latched)) else .next s

/-- A frame row of organization `org`: the bracket it opens, performed by an instance of that
organization. In an instance of the other organization the frame is a reserved one (R88, R98). -/
def issueFrame (org : Org) (op : SeqOp) (latched s : State) : Host.Outcome State Fault Refusal :=
  if s.ready then
    if s.cfg.org = org then .next (runOperation (takeCommand op latched)) else .refused .reservedFrame
  else .next s

end Sys2Proof.Machine
end

