-- ==== Sys2Proof/Machine/DataAccess.lean ====
section
/-! DEFINITION. The addressed operations (spec/42_data_access.md rules R140 to R145). The address is used
as it is given: no mask, no shift, no range check (R89, R145). -/

namespace Sys2Proof.Machine

/-- `writeValue(address, value)` (R140, R141). -/
def execWriteValue (address value : Half) (s : State) : Host.Outcome State Fault Refusal :=
  issue .writeValue (latchValue value (latchAddr address s)) s

/-- `readValue(address)` (R142, R143); the value is left in `RESULT`. -/
def execReadValue (address : Half) (s : State) : Host.Outcome State Fault Refusal :=
  issue .readValue (latchAddr address s) s

/-- `eraseOne(address)` (R144): one frame, no enable or disable bracket of its own. -/
def execEraseOne (address : Half) (s : State) : Host.Outcome State Fault Refusal :=
  issue .eraseOne (latchAddr address s) s

end Sys2Proof.Machine
end

