-- ==== Sys2Proof/Machine/Frames.lean ====
section
/-! DEFINITION. The twelve serial frames as instructions. A frame row is named after the chip-select
bracket it opens and the table gives it the rule of the operation that sends it (spec/30_encoding.md rules
R91, R99): its meaning is that bracket, with the byte string of R91, performed by an instance of the
row's organization. The bits a fixed frame does not use are sent as zeros whatever the row's word held
(R87). Executing a frame by itself is the model's own port (log entry 2): the block sends these frames
only inside its operations. -/

namespace Sys2Proof.Machine

/-- The `WORD16` bracket of R130. -/
def execEnableWriteW (_x8 : BitVec 8) (s : State) : Host.Outcome State Fault Refusal :=
  issueFrame .word16 .enableWrite s s

/-- The `BYTE8` bracket of R130. -/
def execEnableWriteB (_x9 : BitVec 9) (s : State) : Host.Outcome State Fault Refusal :=
  issueFrame .byte8 .enableWrite s s

/-- The `WORD16` bracket of R131. -/
def execDisableWriteW (_x8 : BitVec 8) (s : State) : Host.Outcome State Fault Refusal :=
  issueFrame .word16 .disableWrite s s

/-- The `BYTE8` bracket of R131. -/
def execDisableWriteB (_x9 : BitVec 9) (s : State) : Host.Outcome State Fault Refusal :=
  issueFrame .byte8 .disableWrite s s

/-- The `WORD16` bracket of R132. -/
def execEraseAllW (_x8 : BitVec 8) (s : State) : Host.Outcome State Fault Refusal :=
  issueFrame .word16 .eraseAll s s

/-- The `BYTE8` bracket of R132. -/
def execEraseAllB (_x9 : BitVec 9) (s : State) : Host.Outcome State Fault Refusal :=
  issueFrame .byte8 .eraseAll s s

/-- The `WORD16` write bracket alone (R83, R91): the frame, then the value that `VALUE` holds (R140). -/
def execWriteW (a10 : BitVec 10) (s : State) : Host.Outcome State Fault Refusal :=
  issueFrame .word16 .writeBracket (latchAddr (a10.setWidth 16) s) s

/-- The `BYTE8` write bracket alone (R83, R91): the frame, then the value that `VALUE` holds (R140). -/
def execWriteB (a11 : BitVec 11) (s : State) : Host.Outcome State Fault Refusal :=
  issueFrame .byte8 .writeBracket (latchAddr (a11.setWidth 16) s) s

/-- The `WORD16` read bracket (R91), with its result (R142). -/
def execReadW (a10 : BitVec 10) (s : State) : Host.Outcome State Fault Refusal :=
  issueFrame .word16 .readValue (latchAddr (a10.setWidth 16) s) s

/-- The `BYTE8` read bracket (R91), with its result (R142). -/
def execReadB (a11 : BitVec 11) (s : State) : Host.Outcome State Fault Refusal :=
  issueFrame .byte8 .readValue (latchAddr (a11.setWidth 16) s) s

/-- The `WORD16` erase-one bracket (R91) (R144). -/
def execEraseOneW (a10 : BitVec 10) (s : State) : Host.Outcome State Fault Refusal :=
  issueFrame .word16 .eraseOne (latchAddr (a10.setWidth 16) s) s

/-- The `BYTE8` erase-one bracket (R91) (R144). -/
def execEraseOneB (a11 : BitVec 11) (s : State) : Host.Outcome State Fault Refusal :=
  issueFrame .byte8 .eraseOne (latchAddr (a11.setWidth 16) s) s

end Sys2Proof.Machine
end

