-- ==== Sys2Proof/Machine/Transport.lean ====
section
/-! DEFINITION. The public transport operation (spec/40_transport.md). -/

namespace Sys2Proof.Machine

/-- `configureBus()` (R112): the step list is the single step `CFGB`. -/
def execConfigureBus (s : State) : Host.Outcome State Fault Refusal := issue .configBus s s

end Sys2Proof.Machine
end

