-- ==== Sys2Proof/Machine/WriteControl.lean ====
section
/-! DEFINITION. The fixed-frame operations (spec/41_write_control.md rules R130 to R133). They read no
operand. -/

namespace Sys2Proof.Machine

/-- `enableWrite()` (R130). -/
def execEnableWrite (s : State) : Host.Outcome State Fault Refusal := issue .enableWrite s s

/-- `disableWrite()` (R131). -/
def execDisableWrite (s : State) : Host.Outcome State Fault Refusal := issue .disableWrite s s

/-- `eraseAll()` (R132): one frame, no enable or disable bracket of its own. -/
def execEraseAll (s : State) : Host.Outcome State Fault Refusal := issue .eraseAll s s

end Sys2Proof.Machine
end

