-- ==== Sys2Proof/Machine/Dispatch.lean ====
section
/-! DEFINITION. One arm per row of the opcode table, each a call of the row's own meaning. -/

namespace Sys2Proof.Machine

def exec (i : Instr) (s : State) : Host.Outcome State Fault Refusal :=
  match i with
  | .configureBus => Sys2Proof.Machine.execConfigureBus s
  | .enableWrite => Sys2Proof.Machine.execEnableWrite s
  | .disableWrite => Sys2Proof.Machine.execDisableWrite s
  | .eraseAll => Sys2Proof.Machine.execEraseAll s
  | .writeValue address value => Sys2Proof.Machine.execWriteValue address value s
  | .readValue address => Sys2Proof.Machine.execReadValue address s
  | .eraseOne address => Sys2Proof.Machine.execEraseOne address s
  | .construct line org => Sys2Proof.Machine.execConstruct line org s
  | .enableWriteW x8 => Sys2Proof.Machine.execEnableWriteW x8 s
  | .enableWriteB x9 => Sys2Proof.Machine.execEnableWriteB x9 s
  | .disableWriteW x8 => Sys2Proof.Machine.execDisableWriteW x8 s
  | .disableWriteB x9 => Sys2Proof.Machine.execDisableWriteB x9 s
  | .eraseAllW x8 => Sys2Proof.Machine.execEraseAllW x8 s
  | .eraseAllB x9 => Sys2Proof.Machine.execEraseAllB x9 s
  | .writeW a10 => Sys2Proof.Machine.execWriteW a10 s
  | .writeB a11 => Sys2Proof.Machine.execWriteB a11 s
  | .readW a10 => Sys2Proof.Machine.execReadW a10 s
  | .readB a11 => Sys2Proof.Machine.execReadB a11 s
  | .eraseOneW a10 => Sys2Proof.Machine.execEraseOneW a10 s
  | .eraseOneB a11 => Sys2Proof.Machine.execEraseOneB a11 s

end Sys2Proof.Machine
end

