-- ==== Sys2Proof/Machine/Moves.lean ====
section
/-! DEFINITION. What each move of the other agents does to the machine (spec/10_state.md rules R21 to R23),
and how an opcode-table word is presented. `step` only picks the move. -/

namespace Sys2Proof.Machine

/-- The host presents a code: it is decoded and executed. The reserved code 7 is a command that is refused,
which is no state change (R97, R166); a frame that matches no pattern has no meaning (R98). -/
def presented (c : Code) (s : State) : Host.Outcome State Fault Refusal :=
  match decode c with
  | .ok i => exec i s
  | .error .reservedCommand => .next s
  | .error .unknownFrame => .refused .reservedFrame

/-- A completion is next: it lets a waiting operation run on, and where nothing waits it is no step of the
environment and is dropped (R22). `rest` are the moves after it. -/
def completionArrives (rest : List Input) (s : State) : Host.Outcome State Fault Refusal :=
  if s.inFlight then .next (runOperation s) else .next { s with inputs := rest }

/-- Another bus user acts, which it may do while the block is idle (R23, R190). -/
def busUserActs (b : BusController) (s : State) : Host.Outcome State Fault Refusal :=
  if s.inFlight then .fault .busConflict else .next { s with bus := b }

/-- Nothing is on its way: a waiting operation runs on if the environment answers by itself and otherwise
polls for ever (R164); an idle block waits for the host (R44). -/
def nothingArrives (s : State) : Host.Outcome State Fault Refusal :=
  if s.inFlight then .next (runOperation s) else .next s

/-- `s` in which `c` is the next thing presented, to a block that can take it. A command or a frame needs the
block constructed and idle (R117), a frame also an instance of the frame's organization, which the strap of
`construct` selects (R88); the reset event needs a block that is not constructed yet (R180). -/
def placed (c : Code) (s : State) : State :=
  match c with
  | .reset line org => { s with constructed := false, inputs := .present (.reset line org) :: s.inputs }
  | .host op addr value =>
    { s with constructed := true, seq := Sequencer.atRest, inputs := .present (.host op addr value) :: s.inputs }
  | .frame f =>
    { s with constructed := true, seq := Sequencer.atRest, cfg := { s.cfg with org := frameOrg f }
             inputs := .present (.frame f) :: s.inputs }

end Sys2Proof.Machine
end

