-- ==== Sys2Proof/Machine/Step.lean ====
section
/-! DEFINITION. One step of the machine: the next move of the other agents, and what the block does with
it. -/

namespace Sys2Proof.Machine

/-- The step: the oldest move still to come, and the block's part in it (`Machine/Moves.lean`). -/
def step (s : State) : Host.Outcome State Fault Refusal :=
  match s.inputs with
  | [] => nothingArrives s
  | .present c :: rest => presented c { s with inputs := rest }
  | .busComplete _ :: rest => completionArrives rest s
  | .busUser b :: rest => busUserActs b { s with inputs := rest }

/-- `s` in which the very next step runs the instruction with these table bits. -/
def State.withFetchWord (s : State) (nbits w : Nat) : State := placed (codeOfTableWord nbits w) s

end Sys2Proof.Machine
end

