-- ==== Sys2Proof/Machine/Lines.lean ====
section
/-! DEFINITION. The bus at the level of its lines (spec/10_state.md rules R36, R41): a refinement of the
byte exchange that no rule of the block depends on and that `step` does not use. -/

namespace Sys2Proof.Machine

/-- One clock pulse: the level of `DOUT` before its rising edge and the level of `DIN` sampled on it. -/
structure Pulse where
  dout : Bool
  din : Bool
deriving DecidableEq, Repr

/-- Pulse `k` of the exchange of `tx` for `rx`: bit `7 - k` of each (R36). -/
def pulse (tx rx : Byte) (k : Nat) : Pulse := { dout := tx.getLsbD (7 - k), din := rx.getLsbD (7 - k) }

/-- The eight pulses of one exchange, the most significant bit first (R36). -/
def pulses (tx rx : Byte) : List Pulse := (List.range 8).map (pulse tx rx)

/-- Assembling sampled levels into a byte, the first one most significant (R36, R54). -/
def shiftIn (levels : List Bool) : Byte :=
  levels.foldl (fun (b : Byte) (l : Bool) => (b <<< 1) ||| (if l then 1 else 0)) 0

/-- What happens on the lines in one event: a chip-select level, or eight clock pulses (R36, R41). -/
inductive LineChange where
  | cs (level : Bool)
  | clocked (p : Pulse)
deriving DecidableEq, Repr

/-- The line changes of one event; `Cfg` puts nothing on the lines (R38). -/
def lineChanges : Event → List LineChange
  | .cs l => [.cs l]
  | .cfg => []
  | .x tx rx => (pulses tx rx).map .clocked

/-- The line changes of a trace. -/
def lineTrace (es : List Event) : List LineChange := es.flatMap lineChanges

end Sys2Proof.Machine
end

