-- ==== Sys2Proof/Machine/Micro.lean ====
section
/-! DEFINITION. The sequencer sub-step by sub-step, as spec/10_state.md rule R29 and spec/40_transport.md
rule R114 describe it: what `runOperation` runs to the end of an operation, in the grain at which
`SEQ.STEP`, `SEQ.SUB` and `SEQ.PHASE` can be watched (spec/95_test_vectors.md V57, V58, V65). -/

namespace Sys2Proof.Machine

/-- A completed step, and the end of the operation when it was the last (R29, R121). -/
def stepCompleted (s : State) : State :=
  let t := nextStep s
  if t.seq.step < (stepList t.seq.op t.cfg.org).length then t else endOperation t

/-- The block's own next sub-step, `none` when it has none: it is idle, or in `WAIT` with
`BUS.DONE = 0` (R29, R114, R164). -/
def blockStep (s : State) : Option State :=
  if s.inFlight then
    match (stepList s.seq.op s.cfg.org)[s.seq.step]? with
    | none => some (endOperation s)
    | some st =>
      match st.sends s with
      | none => some (stepCompleted (st.act s))
      | some tx =>
        match s.seq.sub with
        | .cfg => some (xferConfigure s)
        | .load => some (xferLoad tx s)
        | .wait => if s.bus.done then some { s with seq := { s.seq with sub := .take } } else none
        | .take => some (stepCompleted (st.keep (xferTake tx s)))
  else none

/-- The next move of the block, or, where it waits, of the bus environment (R22, R114). -/
def microStep (s : State) : Option State :=
  match blockStep s with
  | some t => some t
  | none => if s.inFlight then environmentAnswer s else none

/-- `n` moves, stopping early where there is none. -/
def microRun : Nat → State → State
  | 0, s => s
  | n + 1, s =>
    match microStep s with
    | some t => microRun n t
    | none => s

end Sys2Proof.Machine
end

