-- ==== Sys2Proof/Safety.lean ====
section
/-! DEFINITION. The terms in which claims about the machine are stated: the premise that the environment
answers, the event and byte strings of a bracket as the spec tabulates them, what an operation leaves
alone, and the invariants of spec/10_state.md rule R43. -/

namespace Sys2Proof.Machine

/-! ### The environment's answers -/

/-- The environment completes the next `n` exchanges: each by the next entry of `inputs`, or from the
first other entry on because it is responsive (spec/60_exceptions.md rule R167). -/
def completes : Nat → List Input → Bool → Bool
  | 0, _, _ => true
  | n + 1, .busComplete _ :: rest, responsive => completes n rest responsive
  | _ + 1, _, responsive => responsive

/-- The environment completes the next `n` exchanges of this state. -/
def State.answersNext (s : State) (n : Nat) : Bool := completes n s.inputs s.responsive

/-- No completion of an exchange is on its way and the environment gives none by itself. -/
def State.unanswered (s : State) : Bool :=
  !s.responsive && s.inputs.all fun i => match i with
    | .busComplete _ => false
    | .present _ => true
    | .busUser _ => true

/-! ### Event strings -/

/-- The events of byte exchanges, sent bytes against received bytes (R113, R114). -/
def exchangeEvents (tx rx : List Byte) : List Event :=
  (tx.zip rx).flatMap fun p => [.cfg, .x p.1 p.2]

/-- The events of one chip-select bracket (R118). -/
def bracketEvents (tx rx : List Byte) : List Event :=
  .cs true :: exchangeEvents tx rx ++ [.cs false]

/-- The command bytes of the enable-write, disable-write and erase-all brackets, as the table of
spec/30_encoding.md rule R91 prints them. -/
def enableBytes : Org → List Byte
  | .word16 => [0x13, 0x00]
  | .byte8 => [0x26, 0x00]

def disableBytes : Org → List Byte
  | .word16 => [0x10, 0x00]
  | .byte8 => [0x20, 0x00]

def eraseAllBytes : Org → List Byte
  | .word16 => [0x11, 0x00]
  | .byte8 => [0x22, 0x00]

/-- The frame of a write to `a`, `0x1400 | a` or `0x2800 | a` (R91). -/
def writeFrame (org : Org) (a : Half) : Half :=
  match org with
  | .word16 => 0x1400 ||| a
  | .byte8 => 0x2800 ||| a

/-- The frame of a read of `a`, `0x1800 | a` or `0x3000 | a` (R91). -/
def readFrame (org : Org) (a : Half) : Half :=
  match org with
  | .word16 => 0x1800 ||| a
  | .byte8 => 0x3000 ||| a

/-- The frame of an erase of `a`, `0x1C00 | a` or `0x3800 | a` (R91). -/
def eraseOneFrame (org : Org) (a : Half) : Half :=
  match org with
  | .word16 => 0x1C00 ||| a
  | .byte8 => 0x3800 ||| a

/-- The two bytes of a frame, high byte first (R84). -/
def frameBytes (f : Half) : List Byte := [hi8 f, lo8 f]

/-- The bytes of the write bracket (R91). -/
def writeBytes (org : Org) (a v : Half) : List Byte := frameBytes (writeFrame org a) ++ valueBytes org v

/-- The bytes of the read bracket, with `DUMMY_TX` in the two data exchanges (R91). -/
def readBytes (org : Org) (a : Half) : List Byte :=
  frameBytes (readFrame org a) ++ [Config.dummyTx, Config.dummyTx]

/-- How many exchanges `writeValue` makes (R122). -/
def writeExchanges : Org → Nat
  | .word16 => 8
  | .byte8 => 7

/-! ### What an operation leaves behind -/

/-- The six configuration fields as `configureBus` leaves them (R112). -/
def BusController.inMode0 (b : BusController) : Prop :=
  b.en = true ∧ b.cpol = false ∧ b.cpha = false ∧ b.div = .slowest ∧ b.order = .msbFirst ∧ b.mstr = true

/-- What no operation of a constructed block writes: the configuration, the pin directions, and the
environment's parameters (R25, R27, R66). -/
structure SameSetting (s t : State) : Prop where
  constructed : t.constructed = s.constructed
  cfg : t.cfg = s.cfg
  dir : t.dir = s.dir
  responsive : t.responsive = s.responsive
  attached : t.dev.attached = s.dev.attached
  devOrg : t.dev.org = s.dev.org
  erased : t.dev.erased = s.dev.erased

/-- An operation with at least one bracket ran from `s` to its end in `t`, appending the events `es`
(R121). -/
structure RanToEnd (s t : State) (es : List Event) : Prop where
  setting : SameSetting s t
  trace : t.trace = s.trace ++ es
  seq : t.seq = Sequencer.atRest
  cs : t.cs = .deasserted
  ended : t.ended = s.ended + 1
  bus : t.bus.inMode0
  done : t.bus.done = true
  clk : t.bus.clk = false

/-- The five data latches other than `FRAME` are as before (R30, R32). -/
structure SameLatches (s t : State) : Prop where
  addr : t.addr = s.addr
  value : t.value = s.value
  rxhi : t.rxhi = s.rxhi
  rxlo : t.rxlo = s.rxlo
  result : t.result = s.result

/-- Every byte of the device array reads as before. -/
def SameArray (s t : State) : Prop := ∀ k, t.dev.mem.read k = s.dev.mem.read k

/-- The byte keys that a command may store to in an array of organization `org` (R70). -/
def storesTo (org : Org) (k : Nat) : DeviceCommand → Prop
  | .write u => k ∈ unitKeys org u
  | .eraseOne u => k ∈ unitKeys org u
  | .eraseAll => True
  | .enable => False
  | .disable => False
  | .read _ => False
  | .unknown => False

/-- Every byte of the device array outside the unit that frame `f` names to the device reads as before:
the address stored to is the one `decodeFrame` takes from the frame (R68, R70). -/
def SameArrayOutside (f : Half) (s t : State) : Prop :=
  ∀ k, ¬ storesTo s.dev.org k (decodeFrame s.dev.org f) →
    t.dev.mem.read k = s.dev.mem.read k

/-- The attached device is a `RefDev` of the block's own organization (R66). -/
def State.served (s : State) : Prop := s.dev.attached = true ∧ s.dev.org = s.cfg.org

/-- The unit that a valid address names (R51). -/
def unitOf (a : Half) : BitVec 11 := a.setWidth 11

/-- A fixed-frame operation ran to its end: one bracket with these two bytes, which `FRAME` holds
afterwards, and the operand and receive latches untouched (R130 to R133). -/
def FixedFrameOutcome (o : Host.Outcome State Fault Refusal) (bytes : Org → List Byte) (s : State) : Prop :=
  ∃ t rx, o = .next t ∧ rx.length = 2 ∧ RanToEnd s t (bracketEvents (bytes s.cfg.org) rx) ∧
    frameBytes t.frame = bytes s.cfg.org ∧ SameLatches s t ∧ SameArrayOutside t.frame s t

/-- A write bracket ran to its end with this address operand, the value being the one in `VALUE`
(R91, R140). -/
def WriteBracketOutcome (o : Host.Outcome State Fault Refusal) (a : Half) (s : State) : Prop :=
  ∃ t rx, o = .next t ∧ rx.length = (writeBytes s.cfg.org a s.value).length ∧
    RanToEnd s t (bracketEvents (writeBytes s.cfg.org a s.value) rx) ∧
    t.frame = writeFrame s.cfg.org a ∧ t.addr = a ∧ t.value = s.value ∧ t.rxhi = s.rxhi ∧
    t.rxlo = s.rxlo ∧ t.result = s.result ∧ SameArrayOutside t.frame s t

/-- A read ran to its end with this address operand: the two bytes of its data phase are latched and
assembled (R91, R142). -/
def ReadOutcome (o : Host.Outcome State Fault Refusal) (a : Half) (s : State) : Prop :=
  ∃ t r0 r1 hi lo, o = .next t ∧
    RanToEnd s t (bracketEvents (readBytes s.cfg.org a) [r0, r1, hi, lo]) ∧
    t.frame = readFrame s.cfg.org a ∧ t.addr = a ∧ t.value = s.value ∧ t.rxhi = hi ∧ t.rxlo = lo ∧
    t.result = (match s.cfg.org with
      | .word16 => hi ++ lo
      | .byte8 => (0 : Byte) ++ lo) ∧
    SameArrayOutside t.frame s t

/-- An erase of one unit ran to its end with this address operand (R91, R144). -/
def EraseOneOutcome (o : Host.Outcome State Fault Refusal) (a : Half) (s : State) : Prop :=
  ∃ t rx, o = .next t ∧ rx.length = 2 ∧
    RanToEnd s t (bracketEvents (frameBytes (eraseOneFrame s.cfg.org a)) rx) ∧
    t.frame = eraseOneFrame s.cfg.org a ∧ t.addr = a ∧ t.value = s.value ∧ t.rxhi = s.rxhi ∧
    t.rxlo = s.rxlo ∧ t.result = s.result ∧ SameArrayOutside t.frame s t

/-- What a unit of the array holds when it holds `v`: all of it, or in `BYTE8` its low byte (R55). -/
def unitValue (org : Org) (v : Half) : Half :=
  match org with
  | .word16 => v
  | .byte8 => v &&& 0x00FF

/-- The kind of an event, for the tables of R122. -/
inductive EventKind where
  | cs1
  | cs0
  | cfg
  | x
deriving DecidableEq, Repr

/-- The kind of an event. -/
def Event.kind : Event → EventKind
  | .cs true => .cs1
  | .cs false => .cs0
  | .cfg => .cfg
  | .x _ _ => .x

/-- The byte exchanges of a trace (R122). -/
def exchangeCount (es : List Event) : Nat := (es.map Event.kind).count .x

/-- The host commands with their operands (R81). -/
def hostCommands (a v : Half) : List Instr :=
  [.configureBus, .enableWrite, .disableWrite, .eraseAll, .writeValue a v, .readValue a, .eraseOne a]

/-- How many exchanges a host command makes (R122), and the operation it puts in flight. -/
def exchangesOf (org : Org) : Instr → Nat
  | .enableWrite => 2
  | .disableWrite => 2
  | .eraseAll => 2
  | .writeValue _ _ => writeExchanges org
  | .readValue _ => 4
  | .eraseOne _ => 2
  | _ => 0

/-- The operation that a host command puts in flight (R117). -/
def opOf : Instr → SeqOp
  | .configureBus => .configBus
  | .enableWrite => .enableWrite
  | .disableWrite => .disableWrite
  | .eraseAll => .eraseAll
  | .writeValue _ _ => .writeValue
  | .readValue _ => .readValue
  | .eraseOne _ => .eraseOne
  | _ => .none

/-- The organization of a frame row and the device command it stands for (R95, R96). -/
def rowCommand : Instr → Option (Org × DeviceCommand)
  | .enableWriteW _ => some (.word16, .enable)
  | .enableWriteB _ => some (.byte8, .enable)
  | .disableWriteW _ => some (.word16, .disable)
  | .disableWriteB _ => some (.byte8, .disable)
  | .eraseAllW _ => some (.word16, .eraseAll)
  | .eraseAllB _ => some (.byte8, .eraseAll)
  | .writeW a => some (.word16, .write (a.setWidth 11))
  | .writeB a => some (.byte8, .write a)
  | .readW a => some (.word16, .read (a.setWidth 11))
  | .readB a => some (.byte8, .read a)
  | .eraseOneW a => some (.word16, .eraseOne (a.setWidth 11))
  | .eraseOneB a => some (.byte8, .eraseOne a)
  | .configureBus => none
  | .enableWrite => none
  | .disableWrite => none
  | .eraseAll => none
  | .writeValue _ _ => none
  | .readValue _ => none
  | .eraseOne _ => none
  | .construct _ _ => none

/-- The bracket that a device command opens, the address apart (R86). -/
def deviceKind : DeviceCommand → Option FrameKind
  | .enable => some .enable
  | .disable => some .disable
  | .eraseAll => some .eraseAll
  | .write _ => some .write
  | .read _ => some .read
  | .eraseOne _ => some .eraseOne
  | .unknown => none

/-- A frame row of the opcode table: its organization and command, and its `match` and `mask` columns
(R95, R99). -/
structure FrameRow where
  org : Org
  kind : FrameKind
  pattern : Half
  mask : Half
deriving DecidableEq, Repr

/-- Frame `f` matches the row. -/
def FrameRow.accepts (r : FrameRow) (f : Half) : Prop := f &&& r.mask = r.pattern

/-- The twelve frame rows, copied from spec/opcode_table.json (R95, R99). -/
def frameRows : List FrameRow :=
  [⟨.word16, .enable, 0x1300, 0xFF00⟩, ⟨.byte8, .enable, 0x2600, 0xFE00⟩,
   ⟨.word16, .disable, 0x1000, 0xFF00⟩, ⟨.byte8, .disable, 0x2000, 0xFE00⟩,
   ⟨.word16, .eraseAll, 0x1100, 0xFF00⟩, ⟨.byte8, .eraseAll, 0x2200, 0xFE00⟩,
   ⟨.word16, .write, 0x1400, 0xFC00⟩, ⟨.byte8, .write, 0x2800, 0xF800⟩,
   ⟨.word16, .read, 0x1800, 0xFC00⟩, ⟨.byte8, .read, 0x3000, 0xF800⟩,
   ⟨.word16, .eraseOne, 0x1C00, 0xFC00⟩, ⟨.byte8, .eraseOne, 0x3800, 0xF800⟩]

/-- The steps of the operation in flight that are left, the one it stands at among them (R29). -/
def State.stepsLeft (s : State) : List SeqStep := (stepList s.seq.op s.cfg.org).drop s.seq.step

/-- How many byte exchanges those steps make, one under way among them (R115, R122). -/
def State.exchangesLeft (s : State) : Nat := s.stepsLeft.countP fun st => (st.sends s).isSome

/-- A move in which the host presents a command or the reset event occurs (R21, R180). -/
def Input.fromHost : Input → Prop
  | .present (.host _ _ _) => True
  | .present (.reset _ _) => True
  | .present (.frame _) => False
  | .busComplete _ => False
  | .busUser _ => False

/-! ### Invariants -/

/-- R43(b): an idle block has chip-select deasserted, `PHASE` idle and its sequencer at rest (R29). -/
def State.idleForm (s : State) : Prop := s.seq = Sequencer.atRest ∧ s.cs = .deasserted

/-- The block waits for an exchange (R43(c), R164): `SUB` is `WAIT` in a transfer step, `PHASE` is
`XFER`, chip-select is asserted, the controller is in mode 0 with the outgoing byte loaded, and the
transfer is not complete. -/
def State.waitForm (s : State) : Prop :=
  s.seq.phase = .xfer ∧ s.seq.sub = .wait ∧ s.cs = .asserted ∧ s.bus.done = false ∧ s.bus.inMode0 ∧
    ∃ st, (stepList s.seq.op s.cfg.org)[s.seq.step]? = some st ∧ st.sends s = some s.bus.txd

/-- A reader of traces (R43(d), R43(e)): before the first event; outside a bracket; inside one with `n`
exchanges so far; or past an event that should not have come. `justCfg` says that the last event was
`Cfg`. -/
inductive TraceReader where
  | start
  | outside (justCfg : Bool)
  | inside (n : Nat) (justCfg : Bool)
  | broken
deriving DecidableEq, Repr

/-- Reading one event. -/
def TraceReader.next (r : TraceReader) (e : Event) : TraceReader :=
  match r, e with
  | .start, .cs false => .outside false
  | .start, _ => .broken
  | .outside _, .cs true => .inside 0 false
  | .outside _, .cfg => .outside true
  | .outside _, _ => .broken
  | .inside n _, .cfg => .inside n true
  | .inside n true, .x _ _ => .inside (n + 1) false
  | .inside n _, .cs false => if 2 ≤ n ∧ n ≤ 4 then .outside false else .broken
  | .inside _ _, _ => .broken
  | .broken, _ => .broken

/-- Reading a trace from its start. -/
def readTrace (es : List Event) : TraceReader := es.foldl TraceReader.next .start

/-- The number of exchanges of the open bracket among the completed steps of an operation. -/
def exchangesIn (l : List SeqStep) : Nat :=
  l.foldl (fun n st => match st with
    | .csa _ => 0
    | .tx _ => n + 1
    | .rx _ => n + 1
    | .cfgb => n
    | .csd => n
    | .res => n) 0

/-- The invariant of a constructed block between steps of the machine: it is idle, or it waits for an
exchange; and its trace is in order up to here. -/
def State.inv (s : State) : Prop :=
  s.constructed = true →
    (s.seq.op = .none → s.idleForm ∧ ∃ j, readTrace s.trace = .outside j) ∧
    (s.seq.op ≠ .none → s.waitForm ∧
      readTrace s.trace = .inside (exchangesIn ((stepList s.seq.op s.cfg.org).take s.seq.step)) true)

/-- The device array is in canonical form, which is the model's own (log entry 5). -/
def State.arrayCanonical (s : State) : Prop := s.dev.mem.wf = true

/-- A run that no agent breaks: the next step does not stop the machine (R23, R190). -/
def State.safe (s : State) : Prop := ∃ t, step s = .next t

end Sys2Proof.Machine
end

