-- ==== Sys2Proof/Certificates/Slice0/Obligations.lean ====
section
/-! DEFINITION. The statements for the provers, each from a numbered rule of spec/ or from the spec
sections it names. A statement about every instruction or every step takes in the model's own choices of what
those are: frame rows that are executed by themselves (log entry 2), the environment's answers held in
`inputs` and `responsive` (log entry 6), refusals that are steps (log entry 8). A premise that the device array
is in canonical form (`arrayCanonical`, `Memory.wf`) speaks of the model's own way to hold it (log entry 5). -/

open Sys2Proof Sys2Proof.Machine

/-! ## Encoding -/

/-- Decoding the encoding of a well-formed instruction gives it back, every operand with it (R81, R85,
R95). -/
def Obligations.DecodeEncode : Prop :=
  ∀ i : Instr, i.wellFormed = true → decode (encode i) = .ok i

/-- Words written out from the spec's tables decode to the instructions they stand for: host codes of R81
and frames of R86 and R88. -/
def Obligations.WordsDecode : Prop :=
  decode (.host 4 0x0003 0xBEEF) = .ok (.writeValue 0x0003 0xBEEF) ∧
  decode (.host 5 0x0003 0) = .ok (.readValue 0x0003) ∧
  decode (.frame 0b0001001100000000) = .ok (.enableWriteW 0) ∧
  decode (.frame 0b0001101111111111) = .ok (.readW 0x3FF) ∧
  decode (.frame 0b0010101010101010) = .ok (.writeB 0x2AA) ∧
  decode (.frame 0b0011111111111111) = .ok (.eraseOneB 0x7FF) ∧
  decode (.host 7 0 0) = .error .reservedCommand ∧
  decode (.frame 0b0001001000000000) = .error .unknownFrame

/-- The frame of an addressed row, laid out by the fields of R85, is the frame that R89 assembles by shift
and OR; and a fixed row with zeros in its unused bits is the shifted constant (R87). -/
def Obligations.FormatsAreMergedFrames : Prop :=
  (∀ a : BitVec 10,
    encode (.writeW a) = .frame (frameOf .write .word16 (a.setWidth 16)) ∧
    encode (.readW a) = .frame (frameOf .read .word16 (a.setWidth 16)) ∧
    encode (.eraseOneW a) = .frame (frameOf .eraseOne .word16 (a.setWidth 16))) ∧
  (∀ a : BitVec 11,
    encode (.writeB a) = .frame (frameOf .write .byte8 (a.setWidth 16)) ∧
    encode (.readB a) = .frame (frameOf .read .byte8 (a.setWidth 16)) ∧
    encode (.eraseOneB a) = .frame (frameOf .eraseOne .byte8 (a.setWidth 16))) ∧
  (∀ a : Half,
    encode (.enableWriteW 0) = .frame (frameOf .enable .word16 a) ∧
    encode (.enableWriteB 0) = .frame (frameOf .enable .byte8 a) ∧
    encode (.disableWriteW 0) = .frame (frameOf .disable .word16 a) ∧
    encode (.disableWriteB 0) = .frame (frameOf .disable .byte8 a) ∧
    encode (.eraseAllW 0) = .frame (frameOf .eraseAll .word16 a) ∧
    encode (.eraseAllB 0) = .frame (frameOf .eraseAll .byte8 a))

/-- R96: for every frame the block sends with a valid address, `decodeFrame` returns the operation and
address it was built from. -/
def Obligations.SentFramesDecode : Prop :=
  ∀ (org : Org) (a : Half), validAddress org a = true →
    decodeFrame org (frameOf .enable org a) = .enable ∧
    decodeFrame org (frameOf .disable org a) = .disable ∧
    decodeFrame org (frameOf .eraseAll org a) = .eraseAll ∧
    decodeFrame org (frameOf .write org a) = .write (unitOf a) ∧
    decodeFrame org (frameOf .read org a) = .read (unitOf a) ∧
    decodeFrame org (frameOf .eraseOne org a) = .eraseOne (unitOf a)

/-- The twelve patterns of the opcode table and the field tests of R96 read every one of the 65536 frames
alike: a frame that matches a row is the row's command to an observer of the row's organization and
unknown to one of the other, and a frame that matches none is unknown to both. -/
def Obligations.FrameDecodersAgree : Prop :=
  ∀ f : Half,
    match decodeFrameWord f with
    | .ok i => ∃ org c, rowCommand i = some (org, c) ∧
        ∀ o, decodeFrame o f = if o = org then c else .unknown
    | .error _ => ∀ o, decodeFrame o f = .unknown

/-- R95, R99: the twelve rows of the opcode table exclude each other, whatever order they are tried in; the
decoder finds the row that a frame matches; and it refuses exactly the frames that match none. -/
def Obligations.FrameRowsExcludeEachOther : Prop :=
  (frameRows.Pairwise fun r q => ∀ f : Half, ¬ (r.accepts f ∧ q.accepts f)) ∧
  (∀ (f : Half) (r : FrameRow), r ∈ frameRows →
    (r.accepts f ↔ ∃ i c, decodeFrameWord f = .ok i ∧ rowCommand i = some (r.org, c) ∧
      deviceKind c = some r.kind)) ∧
  (∀ f : Half, decodeFrameWord f = .error .unknownFrame ↔ ∀ r ∈ frameRows, ¬ r.accepts f)

/-- R95: the opcode map, field by field. In `WORD16` bits 15:10 tell the command and bits 9:8 the fixed
frames apart; in `BYTE8` the same holds one bit higher; and the bits of a fixed frame that tell nothing are
sent as zeros. -/
def Obligations.OpcodeMap : Prop :=
  (∀ f : Half,
    (f.extractLsb' 10 6 = 0b000101 → decodeFrameWord f = .ok (.writeW (f.extractLsb' 0 10))) ∧
    (f.extractLsb' 10 6 = 0b000110 → decodeFrameWord f = .ok (.readW (f.extractLsb' 0 10))) ∧
    (f.extractLsb' 10 6 = 0b000111 → decodeFrameWord f = .ok (.eraseOneW (f.extractLsb' 0 10))) ∧
    (f.extractLsb' 10 6 = 0b000100 →
      (f.extractLsb' 8 2 = 0b11 → decodeFrameWord f = .ok (.enableWriteW (f.extractLsb' 0 8))) ∧
      (f.extractLsb' 8 2 = 0b00 → decodeFrameWord f = .ok (.disableWriteW (f.extractLsb' 0 8))) ∧
      (f.extractLsb' 8 2 = 0b01 → decodeFrameWord f = .ok (.eraseAllW (f.extractLsb' 0 8)))) ∧
    (f.extractLsb' 11 5 = 0b00101 → decodeFrameWord f = .ok (.writeB (f.extractLsb' 0 11))) ∧
    (f.extractLsb' 11 5 = 0b00110 → decodeFrameWord f = .ok (.readB (f.extractLsb' 0 11))) ∧
    (f.extractLsb' 11 5 = 0b00111 → decodeFrameWord f = .ok (.eraseOneB (f.extractLsb' 0 11))) ∧
    (f.extractLsb' 11 5 = 0b00100 →
      (f.extractLsb' 9 2 = 0b11 → decodeFrameWord f = .ok (.enableWriteB (f.extractLsb' 0 9))) ∧
      (f.extractLsb' 9 2 = 0b00 → decodeFrameWord f = .ok (.disableWriteB (f.extractLsb' 0 9))) ∧
      (f.extractLsb' 9 2 = 0b01 → decodeFrameWord f = .ok (.eraseAllB (f.extractLsb' 0 9))))) ∧
  (∀ (k : FrameKind) (a : Half), addressed k = false →
    (frameOf k .word16 a).extractLsb' 0 8 = 0 ∧ (frameOf k .byte8 a).extractLsb' 0 9 = 0)

/-- R94: base and valid address do not overlap, so the frame is their sum, the address is its low bits and
the command the rest; distinct operations or addresses give distinct frames and no addressed frame is a
fixed one, within one mode; across modes `0x2800` is the write to 0 of one and no frame of the other. -/
def Obligations.AddressedFramesAreDisjoint : Prop :=
  (∀ (org : Org) (k : FrameKind) (a : Half), addressed k = true → validAddress org a = true →
    shiftOrg org (baseOpcode k) &&& a = 0 ∧
    mergeAddr org (baseOpcode k) a = shiftOrg org (baseOpcode k) + a ∧
    (mergeAddr org (baseOpcode k) a).toNat % Config.units org = a.toNat ∧
    (mergeAddr org (baseOpcode k) a).toNat / Config.units org =
      (shiftOrg org (baseOpcode k)).toNat / Config.units org) ∧
  (∀ (org : Org) (k l : FrameKind) (a b : Half), addressed k = true → addressed l = true →
    validAddress org a = true → validAddress org b = true →
    frameOf k org a = frameOf l org b → k = l ∧ a = b) ∧
  (∀ (org : Org) (k l : FrameKind) (a b : Half), addressed k = true → addressed l = false →
    validAddress org a = true → frameOf k org a ≠ frameOf l org b) ∧
  frameOf .write .byte8 0 = 0x2800 ∧ decodeFrame .word16 0x2800 = .unknown

/-- R88: the shifted constants, and that the shift loses no bit. -/
def Obligations.ShiftedConstants : Prop :=
  (∀ b : Half, shiftOrg .word16 b = b ∧ shiftOrg .byte8 b = b <<< 1) ∧
  (∀ k : FrameKind, baseOpcode k < 0x8000) ∧
  [FrameKind.enable, .disable, .eraseAll, .write, .read, .eraseOne].map
      (fun k => (shiftOrg .word16 (baseOpcode k), shiftOrg .byte8 (baseOpcode k))) =
    [(0x1300, 0x2600), (0x1000, 0x2000), (0x1100, 0x2200), (0x1400, 0x2800), (0x1800, 0x3000),
      (0x1C00, 0x3800)]

/-- R98: what an address does to the command bits, in range or out of it. -/
def Obligations.OutOfRangeAddressesAlias : Prop :=
  (∀ a : Half, a &&& 0xE000 = 0 →
    decodeFrame .word16 (frameOf .read .word16 a) =
      (if a.getLsbD 10 then .eraseOne ((a.extractLsb' 0 10).setWidth 11)
       else .read ((a.extractLsb' 0 10).setWidth 11)) ∧
    decodeFrame .word16 (frameOf .write .word16 a) =
      (if a.getLsbD 11 then .eraseOne ((a.extractLsb' 0 10).setWidth 11)
       else .write ((a.extractLsb' 0 10).setWidth 11)) ∧
    decodeFrame .word16 (frameOf .eraseOne .word16 a) = .eraseOne ((a.extractLsb' 0 10).setWidth 11)) ∧
  (∀ (a : Half) (k : FrameKind), a &&& 0xE000 ≠ 0 → addressed k = true →
    decodeFrame .word16 (frameOf k .word16 a) = .unknown) ∧
  (∀ a : Half, a &&& 0xC000 = 0 →
    decodeFrame .byte8 (frameOf .read .byte8 a) =
      (if a.getLsbD 11 then .eraseOne (a.extractLsb' 0 11) else .read (a.extractLsb' 0 11)) ∧
    decodeFrame .byte8 (frameOf .write .byte8 a) =
      (if a.getLsbD 12 then .eraseOne (a.extractLsb' 0 11) else .write (a.extractLsb' 0 11)) ∧
    decodeFrame .byte8 (frameOf .eraseOne .byte8 a) = .eraseOne (a.extractLsb' 0 11)) ∧
  (∀ (a : Half) (k : FrameKind), a &&& 0xC000 ≠ 0 → addressed k = true →
    decodeFrame .byte8 (frameOf k .byte8 a) = .unknown)

/-- R97: code 7 is refused, with no state change and no event; every other code is a defined operation for
every value of its operands. That the refusal is a next state in which only the presentation is gone is the
model's choice (log entry 8): R166 gives a refused command no step. -/
def Obligations.ReservedCommandRefused : Prop :=
  (∀ (s : State) (addr value : Half) (rest : List Input),
    s.inputs = .present (.host 7 addr value) :: rest → step s = .next { s with inputs := rest }) ∧
  (∀ (op : BitVec 3) (addr value : Half), op ≠ 7 →
    ∃ i, decode (.host op addr value) = .ok i ∧ i ∈ hostCommands addr value)

/-! ## The step -/

/-- What is presented and decodes is executed, on the state from which the presentation is taken away. R63 and
R117 speak of commands of the host. Three things are the model's choice: the port by which a serial frame is
presented and executed like a command (log entry 2), the list `inputs` as the program (log entry 10), and that
`exec` of what the block refuses is a step (log entry 8). -/
def Obligations.StepRunsTheDecodedInstruction : Prop :=
  ∀ (s : State) (c : Code) (rest : List Input) (i : Instr),
    s.inputs = .present c :: rest → decode c = .ok i → step s = exec i { s with inputs := rest }

/-- The step after an opcode-table word is placed runs the instruction that the word decodes to. R99 gives the
words and R117 the taking of a command. The rest is the model's choice: how a host command lies in a word
(log entry 9), that a placed frame runs by itself (log entry 2), and that `withFetchWord` stands for the next
presentation, to a block made able to take it (log entry 10). -/
def Obligations.PlacedWordRuns : Prop :=
  ∀ (s : State) (nbits w : Nat) (i : Instr), decodeTableWord nbits w = some i →
    step (s.withFetchWord nbits w) = exec i { s.withFetchWord nbits w with inputs := s.inputs }

/-! ## Operations: results, frames, completion -/

/-- R112: `configureBus` sets the six fields, appends `Cfg`, and of the rest of the block changes only the
clock line, which its mode idles low (R36, log entry 26): no other field of the controller, no latch, not
chip-select, not `PHASE`; its operation ends with the sequencer at the start (R121). It needs no answer of
the environment, and performed twice it leaves the same controller. R36 leaves `DOUT` between exchanges open:
that its level is held, both times, is the model's choice (log entry 28). -/
def Obligations.ConfigureBusResult : Prop :=
  ∀ s : State, s.ready = true → ∃ t u,
    exec .configureBus s = .next t ∧ t.bus.inMode0 ∧
    t.bus.txd = s.bus.txd ∧ t.bus.rxd = s.bus.rxd ∧ t.bus.done = s.bus.done ∧
    t.bus.clk = false ∧ t.bus.dout = s.bus.dout ∧
    t.seq = { op := .none, step := 0, sub := .cfg, phase := s.seq.phase } ∧ t.draws = s.draws ∧
    t.trace = s.trace ++ [.cfg] ∧ wire t.trace = wire s.trace ∧ t.cs = s.cs ∧ t.frame = s.frame ∧
    SameLatches s t ∧ SameSetting s t ∧ t.dev = s.dev ∧ t.inputs = s.inputs ∧ t.ready = true ∧
    t.ended = s.ended + 1 ∧
    exec .configureBus t = .next u ∧ u.bus = t.bus ∧ u.trace = s.trace ++ [.cfg, .cfg]

/-- R133: the three fixed-frame operations send the two bytes of their constant in one bracket, keep
nothing they receive, read no operand, leave `FRAME` holding the constant and chip-select deasserted. The
first two store nothing in the array. -/
def Obligations.FixedFrameOperations : Prop :=
  ∀ s : State, s.ready = true → s.answersNext 2 = true →
    FixedFrameOutcome (exec .enableWrite s) enableBytes s ∧
    FixedFrameOutcome (exec .disableWrite s) disableBytes s ∧
    FixedFrameOutcome (exec .eraseAll s) eraseAllBytes s ∧
    (∀ t, exec .enableWrite s = .next t → SameArray s t) ∧
    (∀ t, exec .disableWrite s = .next t → SameArray s t)

/-- R140: `writeValue` performs the enable bracket, the write bracket and the disable bracket. Only the
unit that the write frame names to the device may change. -/
def Obligations.WriteValueResult : Prop :=
  ∀ (s : State) (a v : Half), s.ready = true → s.answersNext (writeExchanges s.cfg.org) = true →
    ∃ t r0 r1 r2, exec (.writeValue a v) s = .next t ∧
      r0.length = 2 ∧ r1.length = (writeBytes s.cfg.org a v).length ∧ r2.length = 2 ∧
      RanToEnd s t (bracketEvents (enableBytes s.cfg.org) r0 ++
        bracketEvents (writeBytes s.cfg.org a v) r1 ++ bracketEvents (disableBytes s.cfg.org) r2) ∧
      frameBytes t.frame = disableBytes s.cfg.org ∧ t.addr = a ∧ t.value = v ∧ t.rxhi = s.rxhi ∧
      t.rxlo = s.rxlo ∧ t.result = s.result ∧ SameArrayOutside (writeFrame s.cfg.org a) s t

/-- R142: `readValue` performs one bracket with two data exchanges and assembles its result from them. -/
def Obligations.ReadValueResult : Prop :=
  ∀ (s : State) (a : Half), s.ready = true → s.answersNext 4 = true →
    ReadOutcome (exec (.readValue a) s) a s

/-- R144: `eraseOne` performs one bracket with its frame alone. -/
def Obligations.EraseOneResult : Prop :=
  ∀ (s : State) (a : Half), s.ready = true → s.answersNext 2 = true →
    EraseOneOutcome (exec (.eraseOne a) s) a s

/-- R143: with no device on the bus, what `readValue` returns is what the environment shifted in during
the two data exchanges, and the two bytes before them are dropped. -/
def Obligations.ReadReturnsWhatTheBusReceived : Prop :=
  ∀ (s : State) (a : Half) (b0 b1 hi lo : Byte) (rest : List Input),
    s.ready = true → s.dev.attached = false →
    s.inputs = .busComplete b0 :: .busComplete b1 :: .busComplete hi :: .busComplete lo :: rest →
    ∃ t, exec (.readValue a) s = .next t ∧ t.inputs = rest ∧ t.rxhi = hi ∧ t.rxlo = lo ∧
      t.result = (match s.cfg.org with
        | .word16 => hi ++ lo
        | .byte8 => (0 : Byte) ++ lo)

/-- R180: what `construct` writes. It exchanges no byte and so needs no answer of the environment. That an
attached device sees the line go low, and an unselected one thus stays as it is (R66, R67), is the model's
choice (log entry 13). -/
def Obligations.ConstructResult : Prop :=
  ∀ (s : State) (line : LineId) (org : Org), s.constructed = false →
    ∃ t, exec (.construct line org) s = .next t ∧ t.constructed = true ∧
      t.cfg = { line := line, org := org } ∧
      t.dir = { cs := .output, clk := .output, dout := .output, din := .input } ∧
      t.cs = .deasserted ∧ t.seq = { op := .none, step := 0, sub := .cfg, phase := .idle } ∧
      t.trace = [.cs false] ∧ t.inputs = s.inputs ∧ t.responsive = s.responsive ∧
      t.dev = s.dev.react (.cs false) ∧ (s.dev.sel = false → t.dev = s.dev)

/-- R183: a second `construct` is refused, in flight (V66) or not. That the refusal is a next state in which
only the presentation is gone is the model's choice (log entry 8): R183 gives a later `construct` no step. -/
def Obligations.SecondConstructRefused : Prop :=
  ∀ (s : State) (line : LineId) (org : Org), s.constructed = true →
    exec (.construct line org) s = .next s ∧
    ∀ rest, s.inputs = .present (.reset line (strapOfOrg org)) :: rest →
      step s = .next { s with inputs := rest }

/-- R166: a command presented before `construct`, while an operation is in flight, or with code 7 changes
no state and emits no event. That the refusal is a next state in which only the presentation is gone is the
model's choice (log entry 8): R166 gives a refused command no step. -/
def Obligations.RefusedCommandsChangeNothing : Prop :=
  ∀ (s : State) (op : BitVec 3) (addr value : Half) (rest : List Input),
    s.inputs = .present (.host op addr value) :: rest →
    (s.constructed = false ∨ s.seq.op ≠ .none ∨ op = 7) →
    step s = .next { s with inputs := rest }

/-- The fixed-frame rows of the opcode table are the brackets of their operations, in an instance of their
organization, whatever stands in the bits that R87 sends as zeros. That a frame can be executed by itself is
the model's choice (log entry 2). -/
def Obligations.FixedFrameRows : Prop :=
  ∀ (s : State) (x8 : BitVec 8) (x9 : BitVec 9), s.ready = true → s.answersNext 2 = true →
    (s.cfg.org = .word16 →
      FixedFrameOutcome (exec (.enableWriteW x8) s) enableBytes s ∧
      FixedFrameOutcome (exec (.disableWriteW x8) s) disableBytes s ∧
      FixedFrameOutcome (exec (.eraseAllW x8) s) eraseAllBytes s) ∧
    (s.cfg.org = .byte8 →
      FixedFrameOutcome (exec (.enableWriteB x9) s) enableBytes s ∧
      FixedFrameOutcome (exec (.disableWriteB x9) s) disableBytes s ∧
      FixedFrameOutcome (exec (.eraseAllB x9) s) eraseAllBytes s)

/-- The addressed rows of the opcode table are the brackets of R91, in an instance of their
organization. That a frame can be executed by itself is the model's choice (log entry 2). -/
def Obligations.AddressedFrameRows : Prop :=
  (∀ (s : State) (a : BitVec 10), s.ready = true → s.cfg.org = .word16 →
    (s.answersNext 4 = true → WriteBracketOutcome (exec (.writeW a) s) (a.setWidth 16) s) ∧
    (s.answersNext 4 = true → ReadOutcome (exec (.readW a) s) (a.setWidth 16) s) ∧
    (s.answersNext 2 = true → EraseOneOutcome (exec (.eraseOneW a) s) (a.setWidth 16) s)) ∧
  (∀ (s : State) (a : BitVec 11), s.ready = true → s.cfg.org = .byte8 →
    (s.answersNext 3 = true → WriteBracketOutcome (exec (.writeB a) s) (a.setWidth 16) s) ∧
    (s.answersNext 4 = true → ReadOutcome (exec (.readB a) s) (a.setWidth 16) s) ∧
    (s.answersNext 2 = true → EraseOneOutcome (exec (.eraseOneB a) s) (a.setWidth 16) s))

/-- The model's choice (log entry 2): a frame row of the other organization is refused by name, and one
presented to a block that takes nothing changes nothing. -/
def Obligations.FrameRowsElsewhere : Prop :=
  ∀ (s : State) (i : Instr) (org : Org) (c : DeviceCommand), rowCommand i = some (org, c) →
    (s.ready = true → s.cfg.org ≠ org → exec i s = .refused .reservedFrame) ∧
    (s.ready = false → exec i s = .next s)

/-- The model's choice (log entry 2): a presented frame that matches no row of the opcode table is refused by
name. R98: the source gives it no meaning and no name. -/
def Obligations.UnmatchedFrameRefused : Prop :=
  ∀ (s : State) (f : Half) (rest : List Input), s.inputs = .present (.frame f) :: rest →
    (∀ r ∈ frameRows, ¬ r.accepts f) → step s = .refused .reservedFrame

/-- The model's choice (log entry 6): a completion for which no operation waits is dropped, and nothing else
changes. R22: it is a step of the environment only in an exchange. -/
def Obligations.IdleCompletionDropped : Prop :=
  ∀ (s : State) (rx : Byte) (rest : List Input), s.inputs = .busComplete rx :: rest → s.inFlight = false →
    step s = .next { s with inputs := rest }

/-- R122: the events of every host command, kind by kind. -/
def Obligations.EventsPerOperation : Prop :=
  ∀ (s : State) (a v : Half), s.ready = true →
    ∀ i ∈ hostCommands a v, s.answersNext (exchangesOf s.cfg.org i) = true →
      ∃ t es, exec i s = .next t ∧ t.trace = s.trace ++ es ∧
        es.map Event.kind =
          (match i with
          | .configureBus => [.cfg]
          | .readValue _ => [.cs1, .cfg, .x, .cfg, .x, .cfg, .x, .cfg, .x, .cs0]
          | .writeValue _ _ =>
            [.cs1, .cfg, .x, .cfg, .x, .cs0, .cs1, .cfg, .x, .cfg, .x] ++
              (match s.cfg.org with
              | .word16 => [.cfg, .x, .cfg, .x]
              | .byte8 => [.cfg, .x]) ++
              [.cs0, .cs1, .cfg, .x, .cfg, .x, .cs0]
          | _ => [.cs1, .cfg, .x, .cfg, .x, .cs0])

/-- R32: outside `construct`, only a read writes `RXHI`, `RXLO` and `RESULT`. -/
def Obligations.OnlyReadsWriteTheResult : Prop :=
  ∀ (s t : State) (i : Instr), exec i s = .next t →
    (∀ a, i ≠ .readValue a) → (∀ a, i ≠ .readW a) → (∀ a, i ≠ .readB a) →
    (∀ line org, i ≠ .construct line org) →
    t.rxhi = s.rxhi ∧ t.rxlo = s.rxlo ∧ t.result = s.result

/-! ## The byte transfer and the sequencer -/

/-- R114: from its first sub-step a byte transfer reconfigures the controller, loads the byte and clears
the flag; if the environment answers it ends with the event `X`, and otherwise it stays in `WAIT` with
`PHASE` at `XFER` and a `Cfg` with no `X` after it. -/
def Obligations.TransferByteResult : Prop :=
  ∀ (s : State) (tx : Byte), s.seq.sub = .cfg →
    (s.answersNext 1 = true → ∃ t rx, transferByte tx s = .completed t ∧
      t.trace = s.trace ++ [.cfg, .x tx rx] ∧ t.bus.txd = tx ∧ t.bus.rxd = rx ∧ t.bus.done = true ∧
      t.bus.inMode0 ∧ t.seq = { s.seq with sub := .cfg, phase := .idle } ∧ t.cs = s.cs ∧
      t.frame = s.frame ∧ SameLatches s t ∧ SameSetting s t) ∧
    (s.answersNext 1 = false → ∃ t, transferByte tx s = .waiting t ∧
      t.trace = s.trace ++ [.cfg] ∧ t.bus.txd = tx ∧ t.bus.done = false ∧ t.bus.inMode0 ∧
      t.seq = { s.seq with sub := .wait, phase := .xfer } ∧ t.cs = s.cs ∧
      t.frame = s.frame ∧ SameLatches s t ∧ SameSetting s t ∧ t.dev = s.dev)

/-- R116: a 16-bit send is two transfers in a row, high byte first, with nothing between them and both
results discarded; the value of a word-organized write is sent the same way. -/
def Obligations.SendFrame16 : Prop :=
  (∀ (s : State) (h : Half), s.seq.sub = .cfg → s.answersNext 2 = true →
    ∃ t u r0 r1, transferByte (hi8 h) s = .completed t ∧ transferByte (lo8 h) t = .completed u ∧
      u.trace = s.trace ++ [.cfg, .x (hi8 h) r0, .cfg, .x (lo8 h) r1] ∧ SameLatches s u ∧
      u.frame = s.frame ∧ u.cs = s.cs) ∧
  (∀ kind, frameBracket kind = [.csa kind, .tx .frameHi, .tx .frameLo, .csd]) ∧
  writeBracket .word16 = [.csa .write, .tx .frameHi, .tx .frameLo, .tx .valueHi, .tx .valueLo, .csd]

/-- R118: every bracket is one `CSA`, two to four transfers of which the first two send the frame, and one
`CSD`. An operation makes one, `writeValue` makes three; only `readValue` has a step after its bracket. -/
def Obligations.BracketShape : Prop :=
  ∀ (op : SeqOp) (org : Org), op ≠ .none → op ≠ .configBus →
    ∃ brackets : List (FrameKind × List SeqStep),
      stepList op org =
        (brackets.flatMap fun b => .csa b.1 :: .tx .frameHi :: .tx .frameLo :: (b.2 ++ [.csd])) ++
          (if op = .readValue then [.res] else []) ∧
      brackets.length = (if op = .writeValue then 3 else 1) ∧
      ∀ b ∈ brackets, b.2.length ≤ 2 ∧ ∀ st ∈ b.2, (∃ e, st = .tx e) ∨ ∃ d, st = .rx d

/-- R29: taking an operation as one composite step is faithful to the sub-step sequencer. From any
position of any operation, some number of sub-steps of the block and answers of the environment lead to
the very state in which the composite run ends, and there nobody has a move: the block is idle or it
waits for an exchange that the environment does not complete. -/
def Obligations.CompositeStepIsTheSequencer : Prop :=
  ∀ s : State, s.inFlight = true →
    ∃ n, microRun n s = runOperation s ∧ microStep (runOperation s) = none

/-- R167: an operation ends when its exchanges are completed. Under a responsive environment every host
command ends after at most 14 steps and 8 exchanges. An operation in flight ends, from wherever it stands,
when the environment completes the exchanges that are left: by itself if nothing is on its way, or because
the next move is a `BusComplete`; commands that the host presents before that are refused and do not hinder
it. The exchanges it makes are those left, at most 8, in at most 14 steps. `responsive` is the premise
`BusResponsive` as the model holds it (log entry 6), and a refused command is a step that takes its
presentation away (log entry 8). -/
def Obligations.ResponsiveOperationsEnd : Prop :=
  (∀ s : State, s.responsive = true → s.ready = true → ∀ a v, ∀ i ∈ hostCommands a v,
    ∃ t, exec i s = .next t ∧ t.ready = true ∧ t.ended = s.ended + 1 ∧
      (stepList (opOf i) s.cfg.org).length ≤ 14 ∧ exchangeCount t.trace ≤ exchangeCount s.trace + 8) ∧
  (∀ s : State, s.inFlight = true → (s.inputs = [] ∨ ∃ rx rest, s.inputs = .busComplete rx :: rest) →
    s.answersNext s.exchangesLeft = true →
    ∃ t, step s = .next t ∧ t.ready = true ∧ t.ended = s.ended + 1 ∧
      exchangeCount t.trace = exchangeCount s.trace + s.exchangesLeft ∧
      s.exchangesLeft ≤ 8 ∧ s.stepsLeft.length ≤ 14) ∧
  (∀ (s : State) (presented rest : List Input), s.inFlight = true → s.inputs = presented ++ rest →
    (∀ x ∈ presented, x.fromHost) → (rest = [] ∨ ∃ rx later, rest = .busComplete rx :: later) →
    completes s.exchangesLeft rest s.responsive = true →
    ∃ t, Host.Core.run Sys2Proof.core (presented.length + 1) s = .next t ∧ t.ready = true ∧
      t.ended = s.ended + 1 ∧ exchangeCount t.trace = exchangeCount s.trace + s.exchangesLeft)

/-- R164: a host command whose exchanges the environment does not all complete hangs: the operation stays
in flight in `WAIT`, chip-select stays asserted, and `rsp.done` does not come. -/
def Obligations.UnansweredOperationsHang : Prop :=
  ∀ (s : State) (a v : Half), s.ready = true → ∀ i ∈ hostCommands a v,
    s.answersNext (exchangesOf s.cfg.org i) = false →
    ∃ t, exec i s = .next t ∧ t.inFlight = true ∧ t.seq.op = opOf i ∧ t.waitForm ∧ t.ended = s.ended

/-- R164: a hang has no end of its own. In `WAIT` the block has no step until `BusComplete`, whatever byte
that brings. With no completion on its way it stays as it is for any number of steps: the operation in
flight, `PHASE` at `XFER`, chip-select asserted, no `rsp.done`, and every command refused (V65, V66). That a
refused command (R166) or a second `construct` (R183) is a step, which takes its presentation away and does
nothing else, is the model's choice (log entry 8): R166 gives it no step. So is the constant level of the two
lines meanwhile (log entry 28). -/
def Obligations.HangIsForever : Prop :=
  ∀ (s : State) (n : Nat), s.inFlight = true → s.waitForm → s.responsive = false →
    (∀ x ∈ s.inputs, (∃ op addr value, x = .present (.host op addr value)) ∨
      ∃ line org, x = .present (.reset line org)) →
    Host.Core.run Sys2Proof.core n s = .next { s with inputs := s.inputs.drop n } ∧
    blockStep s = none ∧ (∀ rx, blockStep (busComplete rx s) ≠ none) ∧
    s.seq.phase = .xfer ∧ s.cs = .asserted

/-! ## The other bus users -/

/-- R113: what other bus users leave in the controller does not matter. Any instruction, from the same
state with any other controller contents, ends in the same state but for the controller's fields; and an
exchange that starts has the fields of R112, whatever they held. -/
def Obligations.BusContentsDoNotMatter : Prop :=
  (∀ (s t : State) (b : BusController) (i : Instr), exec i s = .next t →
    ∃ u, exec i { s with bus := b } = .next u ∧ { u with bus := t.bus } = t) ∧
  (∀ (s : State) (b : BusController) (tx : Byte), s.seq.sub = .cfg →
    ∃ t, (transferByte tx { s with bus := b } = .completed t ∨
      transferByte tx { s with bus := b } = .waiting t) ∧ t.bus.inMode0)

/-- While the block is idle another bus user may leave anything in the fields of the controller that R23
lists, and changes nothing else of the block. Three clauses are the model's choice: the levels of `CLK` and
`DOUT`, which R23 does not list, are replaced with them (log entry 25); other users act before `construct`
too (log entry 14); and where R23 lets them not act, in flight, the model stops with a fault (log entry 7). -/
def Obligations.OtherBusUsers : Prop :=
  ∀ (s : State) (b : BusController) (rest : List Input), s.inputs = .busUser b :: rest →
    (s.inFlight = false → step s = .next { s with bus := b, inputs := rest }) ∧
    (s.inFlight = true → step s = .fault .busConflict)

/-! ## The reference device -/

/-- R67: how the device frames a transaction; the byte it answers is taken before it receives the one
sent. -/
def Obligations.DeviceFraming : Prop :=
  (∀ d : RefDev, d.attached = true →
    d.react (.cs true) = { d with sel := true, tb := [] } ∧
    (∀ tx rx, d.react (.x tx rx) = if d.sel then { d with tb := d.tb ++ [tx] } else d) ∧
    d.react (.cs false) = (if d.sel then { d.commit with sel := false } else d) ∧
    (d.sel = false → ∀ draw, d.answer draw = draw)) ∧
  (∀ (s : State) (draw tx : Byte), s.dev.attached = true →
    (xferTake tx (busComplete draw s)).bus.rxd = s.dev.answer draw ∧
    (xferTake tx (busComplete draw s)).dev = s.dev.react (.x tx (s.dev.answer draw)))

/-- R69: what the device answers. In the data phase of a read it is the unit, high byte first, in `BYTE8`
after one byte that is not determined; in every other case the byte is a free draw. -/
def Obligations.DeviceAnswers : Prop :=
  ∀ (d : RefDev) (draw : Byte), d.attached = true → d.sel = true →
    (d.tb.length < 2 → d.answer draw = draw) ∧
    (∀ hi lo rest, d.tb = hi :: lo :: rest →
      (∀ a, decodeFrame d.org (joinBytes hi lo) = .read a →
        (d.org = .word16 → rest.length = 0 → d.answer draw = (memRead .word16 d.mem a).extractLsb' 8 8) ∧
        (d.org = .word16 → rest.length = 1 → d.answer draw = (memRead .word16 d.mem a).extractLsb' 0 8) ∧
        (d.org = .byte8 → rest.length = 0 → d.answer draw = draw) ∧
        (d.org = .byte8 → rest.length = 1 → d.answer draw = (memRead .byte8 d.mem a).extractLsb' 0 8) ∧
        (2 ≤ rest.length → d.answer draw = draw)) ∧
      ((∀ a, decodeFrame d.org (joinBytes hi lo) ≠ .read a) → d.answer draw = draw))

/-- R70: what the device commits when chip-select is deasserted, command by command, and that it commits
nothing else. -/
def Obligations.DeviceCommits : Prop :=
  ∀ d : RefDev, d.attached = true → d.sel = true → d.mem.wf = true →
    (d.tb.length < 2 → d.react (.cs false) = { d with sel := false }) ∧
    (∀ hi lo rest, d.tb = hi :: lo :: rest →
      let u := d.react (.cs false)
      u.sel = false ∧ u.org = d.org ∧ u.erased = d.erased ∧
      (∀ k, ¬ storesTo d.org k (decodeFrame d.org (joinBytes hi lo)) → u.mem.read k = d.mem.read k) ∧
      (d.wel = false → u.mem = d.mem) ∧
      match decodeFrame d.org (joinBytes hi lo) with
      | .enable => u.wel = true
      | .disable => u.wel = false
      | .eraseAll => u.wel = d.wel ∧ (d.wel = true → ∀ a, validAddress d.org a = true →
          memRead d.org u.mem (unitOf a) = unitValue d.org d.erased)
      | .write a => u.wel = d.wel ∧
          (d.wel = true → d.org = .word16 → ∀ b0 b1 more, rest = b0 :: b1 :: more →
            memRead d.org u.mem a = joinBytes b0 b1) ∧
          (d.wel = true → d.org = .byte8 → ∀ b0 more, rest = b0 :: more →
            memRead d.org u.mem a = zext16 b0) ∧
          (rest.length < (valueBytes d.org 0).length → u.mem = d.mem)
      | .eraseOne a => u.wel = d.wel ∧
          (d.wel = true → memRead d.org u.mem a = unitValue d.org d.erased)
      | .read _ => u.wel = d.wel
      | .unknown => u.wel = d.wel)

/-- R66, R67: the device is driven by the events of the trace and by nothing else. -/
def Obligations.DeviceFollowsTheTrace : Prop :=
  ∀ s t : State, s.constructed = true → step s = .next t →
    ∃ es, t.trace = s.trace ++ es ∧ t.dev = es.foldl RefDev.react s.dev

/-- R53, R70, R187: the enable frame sets the latch, the disable frame clears it, and a `writeValue` leaves
it clear whatever it was. -/
def Obligations.LatchFollowsTheBrackets : Prop :=
  ∀ (s : State) (a v : Half), s.ready = true → s.served →
    (s.answersNext 2 = true → ∃ t, exec .enableWrite s = .next t ∧ t.dev.wel = true) ∧
    (s.answersNext 2 = true → ∃ t, exec .disableWrite s = .next t ∧ t.dev.wel = false) ∧
    (s.answersNext (writeExchanges s.cfg.org) = true →
      ∃ t, exec (.writeValue a v) s = .next t ∧ t.dev.wel = false)

/-- R69: with the device attached, a read of a valid address returns what the unit holds, and changes no
byte of the array. -/
def Obligations.ReadReturnsTheUnit : Prop :=
  ∀ (s : State) (a : Half), s.ready = true → s.served → validAddress s.cfg.org a = true →
    s.answersNext 4 = true →
    ∃ t, exec (.readValue a) s = .next t ∧ t.result = memRead s.cfg.org s.dev.mem (unitOf a) ∧
      SameArray s t

/-- R70: an erase with the latch set erases the unit that the address names, respectively every unit, and
leaves the latch set. -/
def Obligations.ErasesUnderTheLatch : Prop :=
  ∀ (s : State) (a : Half), s.ready = true → s.served → s.arrayCanonical → s.dev.wel = true →
    s.answersNext 2 = true →
    (validAddress s.cfg.org a = true → ∃ t, exec (.eraseOne a) s = .next t ∧ t.dev.wel = true ∧
      memRead s.cfg.org t.dev.mem (unitOf a) = unitValue s.cfg.org s.dev.erased ∧
      ∀ k, k ∉ unitKeys s.cfg.org (unitOf a) → t.dev.mem.read k = s.dev.mem.read k) ∧
    (∃ t, exec .eraseAll s = .next t ∧ t.dev.wel = true ∧
      ∀ u : Half, validAddress s.cfg.org u = true →
        memRead s.cfg.org t.dev.mem (unitOf u) = unitValue s.cfg.org s.dev.erased)

/-- R70, R161: with the latch clear the array keeps every byte through an erase, an out-of-range read and a
write bracket without its enable bracket; the block ends all the same. That a write bracket can be executed
by itself is the model's choice (log entry 2). -/
def Obligations.ProtectedArrayIsKept : Prop :=
  ∀ (s : State) (a : Half) (a10 : BitVec 10) (a11 : BitVec 11), s.ready = true → s.dev.wel = false →
    s.answersNext 4 = true →
    (∃ t, exec (.eraseOne a) s = .next t ∧ t.ready = true ∧ t.dev.mem = s.dev.mem) ∧
    (∃ t, exec .eraseAll s = .next t ∧ t.ready = true ∧ t.dev.mem = s.dev.mem) ∧
    (∃ t, exec (.readValue a) s = .next t ∧ t.ready = true ∧ t.dev.mem = s.dev.mem) ∧
    (s.cfg.org = .word16 → ∃ t, exec (.writeW a10) s = .next t ∧ t.ready = true ∧ t.dev.mem = s.dev.mem) ∧
    (s.cfg.org = .byte8 → ∃ t, exec (.writeB a11) s = .next t ∧ t.ready = true ∧ t.dev.mem = s.dev.mem)

/-- R57, P6: a word-organized read whose address has bit 10 set erases a unit, if the latch is set. -/
def Obligations.OutOfRangeReadErases : Prop :=
  ∀ (s : State) (a : Half), s.ready = true → s.served → s.arrayCanonical → s.cfg.org = .word16 →
    s.dev.wel = true → s.answersNext 4 = true → a &&& 0xE000 = 0 → a.getLsbD 10 = true →
    ∃ t, exec (.readValue a) s = .next t ∧
      memRead .word16 t.dev.mem (unitOf (a &&& 0x03FF)) = s.dev.erased

/-- R73: the round trip. From any state with `SEL = 0`, for every valid address and every value of the
width of a unit, a write and then a read of it return the value, the unit holds it, and the latch is
clear; and without the enable bracket the write would commit nothing. That a write bracket can be executed
by itself is the model's choice (log entry 2). -/
def Obligations.RoundTrip : Prop :=
  ∀ (s : State) (a v : Half), s.ready = true → s.served → s.arrayCanonical → s.dev.sel = false →
    validAddress s.cfg.org a = true → unitValue s.cfg.org v = v →
    s.answersNext (writeExchanges s.cfg.org + 4) = true →
    (∃ t u, exec (.writeValue a v) s = .next t ∧ exec (.readValue a) t = .next u ∧
      u.result = v ∧ memRead s.cfg.org u.dev.mem (unitOf a) = v ∧ u.dev.wel = false) ∧
    (s.dev.wel = false → ∀ a10, s.cfg.org = .word16 →
      ∃ t, exec (.writeW a10) s = .next t ∧ t.dev.mem = s.dev.mem) ∧
    (s.dev.wel = false → ∀ a11, s.cfg.org = .byte8 →
      ∃ t, exec (.writeB a11) s = .next t ∧ t.dev.mem = s.dev.mem)

/-- R187: an erase after a `writeValue` is rejected, though the host enabled writing before it. -/
def Obligations.WriteClosesTheBracket : Prop :=
  ∀ (s : State) (a v b : Half), s.ready = true → s.served →
    s.answersNext (2 + (writeExchanges s.cfg.org + 2)) = true →
    ∃ t u w, exec .enableWrite s = .next t ∧ exec (.writeValue a v) t = .next u ∧
      exec (.eraseOne b) u = .next w ∧ t.dev.wel = true ∧ u.dev.wel = false ∧ w.dev.mem = u.dev.mem

/-! ## Invariants of the machine -/

/-- The invariant holds at reset, and so does the canonical form of the array, which is the model's own
(log entry 5). What the reset state holds beyond R44 is the model's choice (log entries 3 to 6). -/
def Obligations.InvariantAtReset : Prop := State.reset.inv ∧ State.reset.arrayCanonical

/-- Every step, of any state with the invariant, keeps it: a constructed block is idle in the form of
R43(b), or waits for an exchange in the form of R43(c) and R164, and its trace reads as R43(d) and R43(e)
say, up to its position. -/
def Obligations.InvariantKept : Prop := ∀ s t : State, s.inv → step s = .next t → t.inv

/-- Every step keeps the device array in canonical form: keys strictly rising and inside the array, no entry
equal to the background. R66 says only that `MEM` is an array of units; that it is held as such a list, and the
background 0xFF, are the model's choice (log entry 5). -/
def Obligations.ArrayStaysCanonical : Prop :=
  ∀ s t : State, s.arrayCanonical → step s = .next t → t.arrayCanonical

/-- R43, in every state reached from a `construct` under any moves of the other agents: (a) the
configuration is the operands of `construct`; (b) an idle block has chip-select deasserted and `PHASE`
idle; (c) `PHASE` is `XFER` only inside a byte transfer step; (d) the trace is a sequence of brackets of 2
to 4 exchanges, after the first `Cs0`, with at most the last one open; (e) every `X` is immediately preceded
by a `Cfg`. -/
def Obligations.ReachableStates : Prop :=
  ∀ (s t : State) (line : LineId) (org : Org) (n : Nat),
    Host.Core.run Sys2Proof.core n (constructed line org s) = .next t →
    t.cfg = { line := line, org := org } ∧
    (t.seq.op = .none → t.cs = .deasserted ∧ t.seq.phase = .idle) ∧
    (t.seq.phase = .xfer → t.seq.sub = .wait ∧
      ∃ st, (stepList t.seq.op t.cfg.org)[t.seq.step]? = some st ∧ st.sends t ≠ none) ∧
    ((∃ j, readTrace t.trace = .outside j) ∨ ∃ m j, readTrace t.trace = .inside m j ∧ m ≤ 4) ∧
    (∀ pre post tx rx, t.trace = pre ++ .x tx rx :: post → ∃ pre', pre = pre' ++ [.cfg])

/-- R25, R27: `construct` writes the configuration from its operands and sets the four pin directions, and
no step of a constructed block changes either. -/
def Obligations.HandleNeverChanges : Prop :=
  (∀ (s : State) (line : LineId) (org : Org), s.constructed = false →
    ∃ t, exec (.construct line org) s = .next t ∧ t.cfg = { line := line, org := org } ∧
      t.dir.cs = .output ∧ t.dir.clk = .output ∧ t.dir.dout = .output ∧ t.dir.din = .input) ∧
  (∀ s t : State, s.constructed = true → step s = .next t →
    t.constructed = true ∧ t.cfg = s.cfg ∧ t.dir = s.dir)

/-- R44, R181: the reset state has the values the spec gives after `construct`, here for the operands that
log entry 3 chooses. -/
def Obligations.ResetState : Prop :=
  State.reset.cfg = { line := ⟨0⟩, org := .word16 } ∧ State.reset.cs = .deasserted ∧
  State.reset.dir = { cs := .output, clk := .output, dout := .output, din := .input } ∧
  State.reset.seq = { op := .none, step := 0, sub := .cfg, phase := .idle } ∧
  State.reset.trace = [.cs false] ∧ State.reset.ready = true

/-! ## The lines -/

/-- R36: the eight pulses of an exchange carry the byte sent and the byte received, most significant bit
first. -/
def Obligations.LinesCarryTheBytes : Prop :=
  ∀ tx rx : Byte, (pulses tx rx).length = 8 ∧
    shiftIn ((pulses tx rx).map Pulse.dout) = tx ∧ shiftIn ((pulses tx rx).map Pulse.din) = rx ∧
    ((pulses tx rx).map Pulse.dout).head? = some (tx.getLsbD 7)
end

