-- ==== Sys2Proof/Laws/State.lean ====
section
/-! SUPPORT. What each operation on the state does to each field: one lemma per field per operation, true
by definition, so that no later proof unfolds an operation. -/

namespace Sys2Proof.Machine

@[simp] theorem emit_constructed (e : Event) (s : State) : (emit e s).constructed = s.constructed := rfl
@[simp] theorem emit_cfg (e : Event) (s : State) : (emit e s).cfg = s.cfg := rfl
@[simp] theorem emit_cs (e : Event) (s : State) : (emit e s).cs = s.cs := rfl
@[simp] theorem emit_dir (e : Event) (s : State) : (emit e s).dir = s.dir := rfl
@[simp] theorem emit_seq (e : Event) (s : State) : (emit e s).seq = s.seq := rfl
@[simp] theorem emit_addr (e : Event) (s : State) : (emit e s).addr = s.addr := rfl
@[simp] theorem emit_value (e : Event) (s : State) : (emit e s).value = s.value := rfl
@[simp] theorem emit_frame (e : Event) (s : State) : (emit e s).frame = s.frame := rfl
@[simp] theorem emit_rxhi (e : Event) (s : State) : (emit e s).rxhi = s.rxhi := rfl
@[simp] theorem emit_rxlo (e : Event) (s : State) : (emit e s).rxlo = s.rxlo := rfl
@[simp] theorem emit_result (e : Event) (s : State) : (emit e s).result = s.result := rfl
@[simp] theorem emit_bus (e : Event) (s : State) : (emit e s).bus = s.bus := rfl
@[simp] theorem emit_trace (e : Event) (s : State) : (emit e s).trace = s.trace ++ [e] := rfl
@[simp] theorem emit_ended (e : Event) (s : State) : (emit e s).ended = s.ended := rfl
@[simp] theorem emit_dev (e : Event) (s : State) : (emit e s).dev = s.dev.react e := rfl
@[simp] theorem emit_inputs (e : Event) (s : State) : (emit e s).inputs = s.inputs := rfl
@[simp] theorem emit_responsive (e : Event) (s : State) : (emit e s).responsive = s.responsive := rfl
@[simp] theorem emit_draws (e : Event) (s : State) : (emit e s).draws = s.draws := rfl

@[simp] theorem assertCs_constructed (f : Half) (s : State) : (assertCs f s).constructed = s.constructed := rfl
@[simp] theorem assertCs_cfg (f : Half) (s : State) : (assertCs f s).cfg = s.cfg := rfl
@[simp] theorem assertCs_cs (f : Half) (s : State) : (assertCs f s).cs = .asserted := rfl
@[simp] theorem assertCs_dir (f : Half) (s : State) : (assertCs f s).dir = s.dir := rfl
@[simp] theorem assertCs_seq (f : Half) (s : State) : (assertCs f s).seq = s.seq := rfl
@[simp] theorem assertCs_addr (f : Half) (s : State) : (assertCs f s).addr = s.addr := rfl
@[simp] theorem assertCs_value (f : Half) (s : State) : (assertCs f s).value = s.value := rfl
@[simp] theorem assertCs_frame (f : Half) (s : State) : (assertCs f s).frame = f := rfl
@[simp] theorem assertCs_rxhi (f : Half) (s : State) : (assertCs f s).rxhi = s.rxhi := rfl
@[simp] theorem assertCs_rxlo (f : Half) (s : State) : (assertCs f s).rxlo = s.rxlo := rfl
@[simp] theorem assertCs_result (f : Half) (s : State) : (assertCs f s).result = s.result := rfl
@[simp] theorem assertCs_bus (f : Half) (s : State) : (assertCs f s).bus = s.bus := rfl
@[simp] theorem assertCs_trace (f : Half) (s : State) : (assertCs f s).trace = s.trace ++ [.cs true] := rfl
@[simp] theorem assertCs_ended (f : Half) (s : State) : (assertCs f s).ended = s.ended := rfl
@[simp] theorem assertCs_dev (f : Half) (s : State) : (assertCs f s).dev = s.dev.react (.cs true) := rfl
@[simp] theorem assertCs_inputs (f : Half) (s : State) : (assertCs f s).inputs = s.inputs := rfl
@[simp] theorem assertCs_responsive (f : Half) (s : State) : (assertCs f s).responsive = s.responsive := rfl
@[simp] theorem assertCs_draws (f : Half) (s : State) : (assertCs f s).draws = s.draws := rfl

@[simp] theorem deassertCs_constructed (s : State) : (deassertCs s).constructed = s.constructed := rfl
@[simp] theorem deassertCs_cfg (s : State) : (deassertCs s).cfg = s.cfg := rfl
@[simp] theorem deassertCs_cs (s : State) : (deassertCs s).cs = .deasserted := rfl
@[simp] theorem deassertCs_dir (s : State) : (deassertCs s).dir = s.dir := rfl
@[simp] theorem deassertCs_seq (s : State) : (deassertCs s).seq = s.seq := rfl
@[simp] theorem deassertCs_addr (s : State) : (deassertCs s).addr = s.addr := rfl
@[simp] theorem deassertCs_value (s : State) : (deassertCs s).value = s.value := rfl
@[simp] theorem deassertCs_frame (s : State) : (deassertCs s).frame = s.frame := rfl
@[simp] theorem deassertCs_rxhi (s : State) : (deassertCs s).rxhi = s.rxhi := rfl
@[simp] theorem deassertCs_rxlo (s : State) : (deassertCs s).rxlo = s.rxlo := rfl
@[simp] theorem deassertCs_result (s : State) : (deassertCs s).result = s.result := rfl
@[simp] theorem deassertCs_bus (s : State) : (deassertCs s).bus = s.bus := rfl
@[simp] theorem deassertCs_trace (s : State) : (deassertCs s).trace = s.trace ++ [.cs false] := rfl
@[simp] theorem deassertCs_ended (s : State) : (deassertCs s).ended = s.ended := rfl
@[simp] theorem deassertCs_dev (s : State) : (deassertCs s).dev = s.dev.react (.cs false) := rfl
@[simp] theorem deassertCs_inputs (s : State) : (deassertCs s).inputs = s.inputs := rfl
@[simp] theorem deassertCs_responsive (s : State) : (deassertCs s).responsive = s.responsive := rfl
@[simp] theorem deassertCs_draws (s : State) : (deassertCs s).draws = s.draws := rfl

@[simp] theorem configureBus_constructed (s : State) : (configureBus s).constructed = s.constructed := rfl
@[simp] theorem configureBus_cfg (s : State) : (configureBus s).cfg = s.cfg := rfl
@[simp] theorem configureBus_cs (s : State) : (configureBus s).cs = s.cs := rfl
@[simp] theorem configureBus_dir (s : State) : (configureBus s).dir = s.dir := rfl
@[simp] theorem configureBus_seq (s : State) : (configureBus s).seq = s.seq := rfl
@[simp] theorem configureBus_addr (s : State) : (configureBus s).addr = s.addr := rfl
@[simp] theorem configureBus_value (s : State) : (configureBus s).value = s.value := rfl
@[simp] theorem configureBus_frame (s : State) : (configureBus s).frame = s.frame := rfl
@[simp] theorem configureBus_rxhi (s : State) : (configureBus s).rxhi = s.rxhi := rfl
@[simp] theorem configureBus_rxlo (s : State) : (configureBus s).rxlo = s.rxlo := rfl
@[simp] theorem configureBus_result (s : State) : (configureBus s).result = s.result := rfl
@[simp] theorem configureBus_bus (s : State) : (configureBus s).bus = s.bus.configured := rfl
@[simp] theorem configureBus_trace (s : State) : (configureBus s).trace = s.trace ++ [.cfg] := rfl
@[simp] theorem configureBus_ended (s : State) : (configureBus s).ended = s.ended := rfl
@[simp] theorem configureBus_dev (s : State) : (configureBus s).dev = s.dev.react .cfg := rfl
@[simp] theorem configureBus_inputs (s : State) : (configureBus s).inputs = s.inputs := rfl
@[simp] theorem configureBus_responsive (s : State) : (configureBus s).responsive = s.responsive := rfl
@[simp] theorem configureBus_draws (s : State) : (configureBus s).draws = s.draws := rfl

@[simp] theorem xferConfigure_constructed (s : State) : (xferConfigure s).constructed = s.constructed := rfl
@[simp] theorem xferConfigure_cfg (s : State) : (xferConfigure s).cfg = s.cfg := rfl
@[simp] theorem xferConfigure_cs (s : State) : (xferConfigure s).cs = s.cs := rfl
@[simp] theorem xferConfigure_dir (s : State) : (xferConfigure s).dir = s.dir := rfl
@[simp] theorem xferConfigure_seq (s : State) : (xferConfigure s).seq = { s.seq with sub := .load } := rfl
@[simp] theorem xferConfigure_addr (s : State) : (xferConfigure s).addr = s.addr := rfl
@[simp] theorem xferConfigure_value (s : State) : (xferConfigure s).value = s.value := rfl
@[simp] theorem xferConfigure_frame (s : State) : (xferConfigure s).frame = s.frame := rfl
@[simp] theorem xferConfigure_rxhi (s : State) : (xferConfigure s).rxhi = s.rxhi := rfl
@[simp] theorem xferConfigure_rxlo (s : State) : (xferConfigure s).rxlo = s.rxlo := rfl
@[simp] theorem xferConfigure_result (s : State) : (xferConfigure s).result = s.result := rfl
@[simp] theorem xferConfigure_bus (s : State) : (xferConfigure s).bus = s.bus.configured := rfl
@[simp] theorem xferConfigure_trace (s : State) : (xferConfigure s).trace = s.trace ++ [.cfg] := rfl
@[simp] theorem xferConfigure_ended (s : State) : (xferConfigure s).ended = s.ended := rfl
@[simp] theorem xferConfigure_dev (s : State) : (xferConfigure s).dev = s.dev.react .cfg := rfl
@[simp] theorem xferConfigure_inputs (s : State) : (xferConfigure s).inputs = s.inputs := rfl
@[simp] theorem xferConfigure_responsive (s : State) : (xferConfigure s).responsive = s.responsive := rfl
@[simp] theorem xferConfigure_draws (s : State) : (xferConfigure s).draws = s.draws := rfl

@[simp] theorem xferLoad_constructed (tx : Byte) (s : State) : (xferLoad tx s).constructed = s.constructed := rfl
@[simp] theorem xferLoad_cfg (tx : Byte) (s : State) : (xferLoad tx s).cfg = s.cfg := rfl
@[simp] theorem xferLoad_cs (tx : Byte) (s : State) : (xferLoad tx s).cs = s.cs := rfl
@[simp] theorem xferLoad_dir (tx : Byte) (s : State) : (xferLoad tx s).dir = s.dir := rfl
@[simp] theorem xferLoad_seq (tx : Byte) (s : State) : (xferLoad tx s).seq = { s.seq with phase := .xfer, sub := .wait } := rfl
@[simp] theorem xferLoad_addr (tx : Byte) (s : State) : (xferLoad tx s).addr = s.addr := rfl
@[simp] theorem xferLoad_value (tx : Byte) (s : State) : (xferLoad tx s).value = s.value := rfl
@[simp] theorem xferLoad_frame (tx : Byte) (s : State) : (xferLoad tx s).frame = s.frame := rfl
@[simp] theorem xferLoad_rxhi (tx : Byte) (s : State) : (xferLoad tx s).rxhi = s.rxhi := rfl
@[simp] theorem xferLoad_rxlo (tx : Byte) (s : State) : (xferLoad tx s).rxlo = s.rxlo := rfl
@[simp] theorem xferLoad_result (tx : Byte) (s : State) : (xferLoad tx s).result = s.result := rfl
@[simp] theorem xferLoad_bus (tx : Byte) (s : State) : (xferLoad tx s).bus = { s.bus.startExchange tx with clk := Config.freeBit s.draws, dout := Config.freeBit (s.draws + 1) } := rfl
@[simp] theorem xferLoad_trace (tx : Byte) (s : State) : (xferLoad tx s).trace = s.trace := rfl
@[simp] theorem xferLoad_ended (tx : Byte) (s : State) : (xferLoad tx s).ended = s.ended := rfl
@[simp] theorem xferLoad_dev (tx : Byte) (s : State) : (xferLoad tx s).dev = s.dev := rfl
@[simp] theorem xferLoad_inputs (tx : Byte) (s : State) : (xferLoad tx s).inputs = s.inputs := rfl
@[simp] theorem xferLoad_responsive (tx : Byte) (s : State) : (xferLoad tx s).responsive = s.responsive := rfl
@[simp] theorem xferLoad_draws (tx : Byte) (s : State) : (xferLoad tx s).draws = s.draws + 2 := rfl

@[simp] theorem busComplete_constructed (b : Byte) (s : State) : (busComplete b s).constructed = s.constructed := rfl
@[simp] theorem busComplete_cfg (b : Byte) (s : State) : (busComplete b s).cfg = s.cfg := rfl
@[simp] theorem busComplete_cs (b : Byte) (s : State) : (busComplete b s).cs = s.cs := rfl
@[simp] theorem busComplete_dir (b : Byte) (s : State) : (busComplete b s).dir = s.dir := rfl
@[simp] theorem busComplete_seq (b : Byte) (s : State) : (busComplete b s).seq = s.seq := rfl
@[simp] theorem busComplete_addr (b : Byte) (s : State) : (busComplete b s).addr = s.addr := rfl
@[simp] theorem busComplete_value (b : Byte) (s : State) : (busComplete b s).value = s.value := rfl
@[simp] theorem busComplete_frame (b : Byte) (s : State) : (busComplete b s).frame = s.frame := rfl
@[simp] theorem busComplete_rxhi (b : Byte) (s : State) : (busComplete b s).rxhi = s.rxhi := rfl
@[simp] theorem busComplete_rxlo (b : Byte) (s : State) : (busComplete b s).rxlo = s.rxlo := rfl
@[simp] theorem busComplete_result (b : Byte) (s : State) : (busComplete b s).result = s.result := rfl
@[simp] theorem busComplete_bus (b : Byte) (s : State) : (busComplete b s).bus = { s.bus.finishExchange (s.dev.answer b) with clk := false, dout := Config.freeBit s.draws } := rfl
@[simp] theorem busComplete_trace (b : Byte) (s : State) : (busComplete b s).trace = s.trace := rfl
@[simp] theorem busComplete_ended (b : Byte) (s : State) : (busComplete b s).ended = s.ended := rfl
@[simp] theorem busComplete_dev (b : Byte) (s : State) : (busComplete b s).dev = s.dev := rfl
@[simp] theorem busComplete_inputs (b : Byte) (s : State) : (busComplete b s).inputs = s.inputs := rfl
@[simp] theorem busComplete_responsive (b : Byte) (s : State) : (busComplete b s).responsive = s.responsive := rfl
@[simp] theorem busComplete_draws (b : Byte) (s : State) : (busComplete b s).draws = s.draws + 1 := rfl

@[simp] theorem xferTake_constructed (tx : Byte) (s : State) : (xferTake tx s).constructed = s.constructed := rfl
@[simp] theorem xferTake_cfg (tx : Byte) (s : State) : (xferTake tx s).cfg = s.cfg := rfl
@[simp] theorem xferTake_cs (tx : Byte) (s : State) : (xferTake tx s).cs = s.cs := rfl
@[simp] theorem xferTake_dir (tx : Byte) (s : State) : (xferTake tx s).dir = s.dir := rfl
@[simp] theorem xferTake_seq (tx : Byte) (s : State) : (xferTake tx s).seq = { s.seq with phase := .idle, sub := .cfg } := rfl
@[simp] theorem xferTake_addr (tx : Byte) (s : State) : (xferTake tx s).addr = s.addr := rfl
@[simp] theorem xferTake_value (tx : Byte) (s : State) : (xferTake tx s).value = s.value := rfl
@[simp] theorem xferTake_frame (tx : Byte) (s : State) : (xferTake tx s).frame = s.frame := rfl
@[simp] theorem xferTake_rxhi (tx : Byte) (s : State) : (xferTake tx s).rxhi = s.rxhi := rfl
@[simp] theorem xferTake_rxlo (tx : Byte) (s : State) : (xferTake tx s).rxlo = s.rxlo := rfl
@[simp] theorem xferTake_result (tx : Byte) (s : State) : (xferTake tx s).result = s.result := rfl
@[simp] theorem xferTake_bus (tx : Byte) (s : State) : (xferTake tx s).bus = s.bus := rfl
@[simp] theorem xferTake_trace (tx : Byte) (s : State) : (xferTake tx s).trace = s.trace ++ [.x tx s.bus.rxd] := rfl
@[simp] theorem xferTake_ended (tx : Byte) (s : State) : (xferTake tx s).ended = s.ended := rfl
@[simp] theorem xferTake_dev (tx : Byte) (s : State) : (xferTake tx s).dev = s.dev.react (.x tx s.bus.rxd) := rfl
@[simp] theorem xferTake_inputs (tx : Byte) (s : State) : (xferTake tx s).inputs = s.inputs := rfl
@[simp] theorem xferTake_responsive (tx : Byte) (s : State) : (xferTake tx s).responsive = s.responsive := rfl
@[simp] theorem xferTake_draws (tx : Byte) (s : State) : (xferTake tx s).draws = s.draws := rfl

@[simp] theorem latchResult_constructed (s : State) : (latchResult s).constructed = s.constructed := rfl
@[simp] theorem latchResult_cfg (s : State) : (latchResult s).cfg = s.cfg := rfl
@[simp] theorem latchResult_cs (s : State) : (latchResult s).cs = s.cs := rfl
@[simp] theorem latchResult_dir (s : State) : (latchResult s).dir = s.dir := rfl
@[simp] theorem latchResult_seq (s : State) : (latchResult s).seq = s.seq := rfl
@[simp] theorem latchResult_addr (s : State) : (latchResult s).addr = s.addr := rfl
@[simp] theorem latchResult_value (s : State) : (latchResult s).value = s.value := rfl
@[simp] theorem latchResult_frame (s : State) : (latchResult s).frame = s.frame := rfl
@[simp] theorem latchResult_rxhi (s : State) : (latchResult s).rxhi = s.rxhi := rfl
@[simp] theorem latchResult_rxlo (s : State) : (latchResult s).rxlo = s.rxlo := rfl
@[simp] theorem latchResult_result (s : State) : (latchResult s).result = assembleResult s.cfg.org s.rxhi s.rxlo := rfl
@[simp] theorem latchResult_bus (s : State) : (latchResult s).bus = s.bus := rfl
@[simp] theorem latchResult_trace (s : State) : (latchResult s).trace = s.trace := rfl
@[simp] theorem latchResult_ended (s : State) : (latchResult s).ended = s.ended := rfl
@[simp] theorem latchResult_dev (s : State) : (latchResult s).dev = s.dev := rfl
@[simp] theorem latchResult_inputs (s : State) : (latchResult s).inputs = s.inputs := rfl
@[simp] theorem latchResult_responsive (s : State) : (latchResult s).responsive = s.responsive := rfl
@[simp] theorem latchResult_draws (s : State) : (latchResult s).draws = s.draws := rfl

@[simp] theorem takeCommand_constructed (op : SeqOp) (s : State) : (takeCommand op s).constructed = s.constructed := rfl
@[simp] theorem takeCommand_cfg (op : SeqOp) (s : State) : (takeCommand op s).cfg = s.cfg := rfl
@[simp] theorem takeCommand_cs (op : SeqOp) (s : State) : (takeCommand op s).cs = s.cs := rfl
@[simp] theorem takeCommand_dir (op : SeqOp) (s : State) : (takeCommand op s).dir = s.dir := rfl
@[simp] theorem takeCommand_seq (op : SeqOp) (s : State) : (takeCommand op s).seq = { s.seq with op := op, step := 0, sub := .cfg } := rfl
@[simp] theorem takeCommand_addr (op : SeqOp) (s : State) : (takeCommand op s).addr = s.addr := rfl
@[simp] theorem takeCommand_value (op : SeqOp) (s : State) : (takeCommand op s).value = s.value := rfl
@[simp] theorem takeCommand_frame (op : SeqOp) (s : State) : (takeCommand op s).frame = s.frame := rfl
@[simp] theorem takeCommand_rxhi (op : SeqOp) (s : State) : (takeCommand op s).rxhi = s.rxhi := rfl
@[simp] theorem takeCommand_rxlo (op : SeqOp) (s : State) : (takeCommand op s).rxlo = s.rxlo := rfl
@[simp] theorem takeCommand_result (op : SeqOp) (s : State) : (takeCommand op s).result = s.result := rfl
@[simp] theorem takeCommand_bus (op : SeqOp) (s : State) : (takeCommand op s).bus = s.bus := rfl
@[simp] theorem takeCommand_trace (op : SeqOp) (s : State) : (takeCommand op s).trace = s.trace := rfl
@[simp] theorem takeCommand_ended (op : SeqOp) (s : State) : (takeCommand op s).ended = s.ended := rfl
@[simp] theorem takeCommand_dev (op : SeqOp) (s : State) : (takeCommand op s).dev = s.dev := rfl
@[simp] theorem takeCommand_inputs (op : SeqOp) (s : State) : (takeCommand op s).inputs = s.inputs := rfl
@[simp] theorem takeCommand_responsive (op : SeqOp) (s : State) : (takeCommand op s).responsive = s.responsive := rfl
@[simp] theorem takeCommand_draws (op : SeqOp) (s : State) : (takeCommand op s).draws = s.draws := rfl

@[simp] theorem nextStep_constructed (s : State) : (nextStep s).constructed = s.constructed := rfl
@[simp] theorem nextStep_cfg (s : State) : (nextStep s).cfg = s.cfg := rfl
@[simp] theorem nextStep_cs (s : State) : (nextStep s).cs = s.cs := rfl
@[simp] theorem nextStep_dir (s : State) : (nextStep s).dir = s.dir := rfl
@[simp] theorem nextStep_seq (s : State) : (nextStep s).seq = { s.seq with step := s.seq.step + 1, sub := .cfg } := rfl
@[simp] theorem nextStep_addr (s : State) : (nextStep s).addr = s.addr := rfl
@[simp] theorem nextStep_value (s : State) : (nextStep s).value = s.value := rfl
@[simp] theorem nextStep_frame (s : State) : (nextStep s).frame = s.frame := rfl
@[simp] theorem nextStep_rxhi (s : State) : (nextStep s).rxhi = s.rxhi := rfl
@[simp] theorem nextStep_rxlo (s : State) : (nextStep s).rxlo = s.rxlo := rfl
@[simp] theorem nextStep_result (s : State) : (nextStep s).result = s.result := rfl
@[simp] theorem nextStep_bus (s : State) : (nextStep s).bus = s.bus := rfl
@[simp] theorem nextStep_trace (s : State) : (nextStep s).trace = s.trace := rfl
@[simp] theorem nextStep_ended (s : State) : (nextStep s).ended = s.ended := rfl
@[simp] theorem nextStep_dev (s : State) : (nextStep s).dev = s.dev := rfl
@[simp] theorem nextStep_inputs (s : State) : (nextStep s).inputs = s.inputs := rfl
@[simp] theorem nextStep_responsive (s : State) : (nextStep s).responsive = s.responsive := rfl
@[simp] theorem nextStep_draws (s : State) : (nextStep s).draws = s.draws := rfl

@[simp] theorem endOperation_constructed (s : State) : (endOperation s).constructed = s.constructed := rfl
@[simp] theorem endOperation_cfg (s : State) : (endOperation s).cfg = s.cfg := rfl
@[simp] theorem endOperation_cs (s : State) : (endOperation s).cs = s.cs := rfl
@[simp] theorem endOperation_dir (s : State) : (endOperation s).dir = s.dir := rfl
@[simp] theorem endOperation_seq (s : State) : (endOperation s).seq = { s.seq with op := .none, step := 0, sub := .cfg } := rfl
@[simp] theorem endOperation_addr (s : State) : (endOperation s).addr = s.addr := rfl
@[simp] theorem endOperation_value (s : State) : (endOperation s).value = s.value := rfl
@[simp] theorem endOperation_frame (s : State) : (endOperation s).frame = s.frame := rfl
@[simp] theorem endOperation_rxhi (s : State) : (endOperation s).rxhi = s.rxhi := rfl
@[simp] theorem endOperation_rxlo (s : State) : (endOperation s).rxlo = s.rxlo := rfl
@[simp] theorem endOperation_result (s : State) : (endOperation s).result = s.result := rfl
@[simp] theorem endOperation_bus (s : State) : (endOperation s).bus = s.bus := rfl
@[simp] theorem endOperation_trace (s : State) : (endOperation s).trace = s.trace := rfl
@[simp] theorem endOperation_ended (s : State) : (endOperation s).ended = s.ended + 1 := rfl
@[simp] theorem endOperation_dev (s : State) : (endOperation s).dev = s.dev := rfl
@[simp] theorem endOperation_inputs (s : State) : (endOperation s).inputs = s.inputs := rfl
@[simp] theorem endOperation_responsive (s : State) : (endOperation s).responsive = s.responsive := rfl
@[simp] theorem endOperation_draws (s : State) : (endOperation s).draws = s.draws := rfl

@[simp] theorem latchAddr_constructed (a : Half) (s : State) : (latchAddr a s).constructed = s.constructed := rfl
@[simp] theorem latchAddr_cfg (a : Half) (s : State) : (latchAddr a s).cfg = s.cfg := rfl
@[simp] theorem latchAddr_cs (a : Half) (s : State) : (latchAddr a s).cs = s.cs := rfl
@[simp] theorem latchAddr_dir (a : Half) (s : State) : (latchAddr a s).dir = s.dir := rfl
@[simp] theorem latchAddr_seq (a : Half) (s : State) : (latchAddr a s).seq = s.seq := rfl
@[simp] theorem latchAddr_addr (a : Half) (s : State) : (latchAddr a s).addr = a := rfl
@[simp] theorem latchAddr_value (a : Half) (s : State) : (latchAddr a s).value = s.value := rfl
@[simp] theorem latchAddr_frame (a : Half) (s : State) : (latchAddr a s).frame = s.frame := rfl
@[simp] theorem latchAddr_rxhi (a : Half) (s : State) : (latchAddr a s).rxhi = s.rxhi := rfl
@[simp] theorem latchAddr_rxlo (a : Half) (s : State) : (latchAddr a s).rxlo = s.rxlo := rfl
@[simp] theorem latchAddr_result (a : Half) (s : State) : (latchAddr a s).result = s.result := rfl
@[simp] theorem latchAddr_bus (a : Half) (s : State) : (latchAddr a s).bus = s.bus := rfl
@[simp] theorem latchAddr_trace (a : Half) (s : State) : (latchAddr a s).trace = s.trace := rfl
@[simp] theorem latchAddr_ended (a : Half) (s : State) : (latchAddr a s).ended = s.ended := rfl
@[simp] theorem latchAddr_dev (a : Half) (s : State) : (latchAddr a s).dev = s.dev := rfl
@[simp] theorem latchAddr_inputs (a : Half) (s : State) : (latchAddr a s).inputs = s.inputs := rfl
@[simp] theorem latchAddr_responsive (a : Half) (s : State) : (latchAddr a s).responsive = s.responsive := rfl
@[simp] theorem latchAddr_draws (a : Half) (s : State) : (latchAddr a s).draws = s.draws := rfl

@[simp] theorem latchValue_constructed (v : Half) (s : State) : (latchValue v s).constructed = s.constructed := rfl
@[simp] theorem latchValue_cfg (v : Half) (s : State) : (latchValue v s).cfg = s.cfg := rfl
@[simp] theorem latchValue_cs (v : Half) (s : State) : (latchValue v s).cs = s.cs := rfl
@[simp] theorem latchValue_dir (v : Half) (s : State) : (latchValue v s).dir = s.dir := rfl
@[simp] theorem latchValue_seq (v : Half) (s : State) : (latchValue v s).seq = s.seq := rfl
@[simp] theorem latchValue_addr (v : Half) (s : State) : (latchValue v s).addr = s.addr := rfl
@[simp] theorem latchValue_value (v : Half) (s : State) : (latchValue v s).value = v := rfl
@[simp] theorem latchValue_frame (v : Half) (s : State) : (latchValue v s).frame = s.frame := rfl
@[simp] theorem latchValue_rxhi (v : Half) (s : State) : (latchValue v s).rxhi = s.rxhi := rfl
@[simp] theorem latchValue_rxlo (v : Half) (s : State) : (latchValue v s).rxlo = s.rxlo := rfl
@[simp] theorem latchValue_result (v : Half) (s : State) : (latchValue v s).result = s.result := rfl
@[simp] theorem latchValue_bus (v : Half) (s : State) : (latchValue v s).bus = s.bus := rfl
@[simp] theorem latchValue_trace (v : Half) (s : State) : (latchValue v s).trace = s.trace := rfl
@[simp] theorem latchValue_ended (v : Half) (s : State) : (latchValue v s).ended = s.ended := rfl
@[simp] theorem latchValue_dev (v : Half) (s : State) : (latchValue v s).dev = s.dev := rfl
@[simp] theorem latchValue_inputs (v : Half) (s : State) : (latchValue v s).inputs = s.inputs := rfl
@[simp] theorem latchValue_responsive (v : Half) (s : State) : (latchValue v s).responsive = s.responsive := rfl
@[simp] theorem latchValue_draws (v : Half) (s : State) : (latchValue v s).draws = s.draws := rfl

@[simp] theorem latchRxHi_constructed (s : State) : (latchRxHi s).constructed = s.constructed := rfl
@[simp] theorem latchRxHi_cfg (s : State) : (latchRxHi s).cfg = s.cfg := rfl
@[simp] theorem latchRxHi_cs (s : State) : (latchRxHi s).cs = s.cs := rfl
@[simp] theorem latchRxHi_dir (s : State) : (latchRxHi s).dir = s.dir := rfl
@[simp] theorem latchRxHi_seq (s : State) : (latchRxHi s).seq = s.seq := rfl
@[simp] theorem latchRxHi_addr (s : State) : (latchRxHi s).addr = s.addr := rfl
@[simp] theorem latchRxHi_value (s : State) : (latchRxHi s).value = s.value := rfl
@[simp] theorem latchRxHi_frame (s : State) : (latchRxHi s).frame = s.frame := rfl
@[simp] theorem latchRxHi_rxhi (s : State) : (latchRxHi s).rxhi = s.bus.rxd := rfl
@[simp] theorem latchRxHi_rxlo (s : State) : (latchRxHi s).rxlo = s.rxlo := rfl
@[simp] theorem latchRxHi_result (s : State) : (latchRxHi s).result = s.result := rfl
@[simp] theorem latchRxHi_bus (s : State) : (latchRxHi s).bus = s.bus := rfl
@[simp] theorem latchRxHi_trace (s : State) : (latchRxHi s).trace = s.trace := rfl
@[simp] theorem latchRxHi_ended (s : State) : (latchRxHi s).ended = s.ended := rfl
@[simp] theorem latchRxHi_dev (s : State) : (latchRxHi s).dev = s.dev := rfl
@[simp] theorem latchRxHi_inputs (s : State) : (latchRxHi s).inputs = s.inputs := rfl
@[simp] theorem latchRxHi_responsive (s : State) : (latchRxHi s).responsive = s.responsive := rfl
@[simp] theorem latchRxHi_draws (s : State) : (latchRxHi s).draws = s.draws := rfl

@[simp] theorem latchRxLo_constructed (s : State) : (latchRxLo s).constructed = s.constructed := rfl
@[simp] theorem latchRxLo_cfg (s : State) : (latchRxLo s).cfg = s.cfg := rfl
@[simp] theorem latchRxLo_cs (s : State) : (latchRxLo s).cs = s.cs := rfl
@[simp] theorem latchRxLo_dir (s : State) : (latchRxLo s).dir = s.dir := rfl
@[simp] theorem latchRxLo_seq (s : State) : (latchRxLo s).seq = s.seq := rfl
@[simp] theorem latchRxLo_addr (s : State) : (latchRxLo s).addr = s.addr := rfl
@[simp] theorem latchRxLo_value (s : State) : (latchRxLo s).value = s.value := rfl
@[simp] theorem latchRxLo_frame (s : State) : (latchRxLo s).frame = s.frame := rfl
@[simp] theorem latchRxLo_rxhi (s : State) : (latchRxLo s).rxhi = s.rxhi := rfl
@[simp] theorem latchRxLo_rxlo (s : State) : (latchRxLo s).rxlo = s.bus.rxd := rfl
@[simp] theorem latchRxLo_result (s : State) : (latchRxLo s).result = s.result := rfl
@[simp] theorem latchRxLo_bus (s : State) : (latchRxLo s).bus = s.bus := rfl
@[simp] theorem latchRxLo_trace (s : State) : (latchRxLo s).trace = s.trace := rfl
@[simp] theorem latchRxLo_ended (s : State) : (latchRxLo s).ended = s.ended := rfl
@[simp] theorem latchRxLo_dev (s : State) : (latchRxLo s).dev = s.dev := rfl
@[simp] theorem latchRxLo_inputs (s : State) : (latchRxLo s).inputs = s.inputs := rfl
@[simp] theorem latchRxLo_responsive (s : State) : (latchRxLo s).responsive = s.responsive := rfl
@[simp] theorem latchRxLo_draws (s : State) : (latchRxLo s).draws = s.draws := rfl

end Sys2Proof.Machine
end

