-- ==== Sys2Proof/Laws/Memory.lean ====
section
/-! SUPPORT. The laws of the device array: read after write, and the canonical form, which every memory
operation keeps. -/

namespace Sys2Proof.Machine

/-- The canonical form, entry by entry. -/
theorem Memory.wf_iff (m : Memory) :
    m.wf = true ↔ m.Pairwise (fun a b => a.1 < b.1) ∧
      ∀ c ∈ m, c.1 < Config.arrayBytes ∧ c.2 ≠ Config.background := by
  simp [Memory.wf]

theorem Memory.wf_nil : Memory.wf [] = true := by simp [Memory.wf_iff]

/-- A key below every listed key reads as the background. -/
theorem Memory.read_of_lt {m : Memory} {k : Nat} (h : ∀ c ∈ m, k < c.1) :
    m.read k = Config.background := by
  induction m with
  | nil => rfl
  | cons c rest ih =>
    have hk : k ≠ c.1 := Nat.ne_of_lt (h c (by simp))
    simp [Memory.read, hk, ih fun d hd => h d (by simp [hd])]

/-- A write leaves every other key alone. -/
theorem Memory.read_write_other (m : Memory) {k j : Nat} (v : Byte) (h : j ≠ k) :
    (m.write k v).read j = m.read j := by
  induction m with
  | nil => by_cases hv : v = Config.background <;> simp [Memory.write, Memory.read, hv, h]
  | cons c rest ih =>
    simp only [Memory.write]
    split
    · split <;> simp [Memory.read, h]
    · split
      · rename_i hk
        split <;> simp [Memory.read, h, ← hk]
      · simp only [Memory.read, ih]

/-- A written key reads as the value written. -/
theorem Memory.read_write_same {m : Memory} (hm : m.wf = true) (k : Nat) (v : Byte) :
    (m.write k v).read k = v := by
  rw [Memory.wf_iff] at hm
  obtain ⟨hp, -⟩ := hm
  induction m with
  | nil => by_cases hv : v = Config.background <;> simp [Memory.write, Memory.read, hv]
  | cons c rest ih =>
    rw [List.pairwise_cons] at hp
    simp only [Memory.write]
    split
    · rename_i hk
      split
      · rename_i hv
        rw [hv]
        refine Memory.read_of_lt fun d hd => ?_
        rcases List.mem_cons.1 hd with rfl | hd
        · exact hk
        · exact lt_trans hk (hp.1 d hd)
      · simp [Memory.read]
    · split
      · rename_i hk
        split
        · rename_i hv
          rw [hv]
          exact Memory.read_of_lt fun d hd => hk ▸ hp.1 d hd
        · simp [Memory.read]
      · rename_i hk
        simp [Memory.read, hk, ih hp.2]

/-- The entries of a written memory: the written one, or an entry from before. -/
theorem Memory.mem_write {m : Memory} {k : Nat} {v : Byte} {d : Host.Cell} (h : d ∈ m.write k v) :
    d = (k, v) ∧ v ≠ Config.background ∨ d ∈ m := by
  induction m with
  | nil =>
    simp only [Memory.write] at h
    split at h <;> simp_all
  | cons c rest ih =>
    simp only [Memory.write] at h
    split at h
    · split at h
      · exact .inr h
      · rename_i hv
        rcases List.mem_cons.1 h with rfl | h
        · exact .inl ⟨rfl, hv⟩
        · exact .inr h
    · split at h
      · split at h
        · exact .inr (List.mem_cons_of_mem _ h)
        · rename_i hv
          rcases List.mem_cons.1 h with rfl | h
          · exact .inl ⟨rfl, hv⟩
          · exact .inr (List.mem_cons_of_mem _ h)
      · rcases List.mem_cons.1 h with rfl | h
        · exact .inr List.mem_cons_self
        · exact (ih h).imp id (List.mem_cons_of_mem _)

/-- Writing inside the array keeps the canonical form. -/
theorem Memory.wf_write {m : Memory} (hm : m.wf = true) {k : Nat} (hk : k < Config.arrayBytes) (v : Byte) :
    (m.write k v).wf = true := by
  rw [Memory.wf_iff] at hm ⊢
  obtain ⟨hp, he⟩ := hm
  refine ⟨?_, fun d hd => ?_⟩
  · clear he
    induction m with
    | nil => simp only [Memory.write]; split <;> simp
    | cons c rest ih =>
      have hp' := List.pairwise_cons.1 hp
      simp only [Memory.write]
      split
      · rename_i hlt
        split
        · exact hp
        · refine List.pairwise_cons.2 ⟨fun d hd => ?_, hp⟩
          rcases List.mem_cons.1 hd with rfl | hd
          · exact hlt
          · exact lt_trans hlt (hp'.1 d hd)
      · rename_i hlt
        split
        · rename_i heq
          split
          · exact hp'.2
          · exact List.pairwise_cons.2 ⟨fun d hd => heq ▸ hp'.1 d hd, hp'.2⟩
        · rename_i hne
          refine List.pairwise_cons.2 ⟨fun d hd => ?_, ih hp'.2⟩
          rcases Memory.mem_write hd with ⟨rfl, -⟩ | hd
          · exact lt_of_le_of_ne (Nat.le_of_not_lt hlt) (Ne.symm hne)
          · exact hp'.1 d hd
  · rcases Memory.mem_write hd with ⟨rfl, hv⟩ | hd
    · exact ⟨hk, hv⟩
    · exact he d hd

/-- A filled memory is canonical. -/
theorem Memory.wf_filled (f : Nat → Byte) : (Memory.filled f).wf = true := by
  rw [Memory.wf_iff]
  refine ⟨?_, fun c hc => ?_⟩
  · refine List.Pairwise.filterMap _ (R := (· < ·)) ?_ List.pairwise_lt_range
    intro a a' haa b hb b' hb'
    split at hb <;> simp at hb
    split at hb' <;> simp at hb'
    subst hb hb'
    exact haa
  · simp only [Memory.filled, List.mem_filterMap, List.mem_range] at hc
    obtain ⟨k, hk, hc⟩ := hc
    split at hc
    · simp at hc
    · rename_i hv
      simp only [Option.some.injEq] at hc
      subst hc
      exact ⟨hk, hv⟩

/-- Reading through the construction of a filled memory. -/
theorem Memory.read_filterMap (f : Nat → Byte) (l : List Nat) {k : Nat} (hk : k ∈ l) :
    Memory.read (l.filterMap fun j => if f j = Config.background then none else some (j, f j)) k = f k := by
  induction l with
  | nil => simp at hk
  | cons a rest ih =>
    by_cases hka : k = a
    · subst hka
      by_cases hv : f k = Config.background
      · by_cases hr : k ∈ rest
        · simp [hv, ih hr]
        · simp only [List.filterMap_cons, hv, if_true]
          clear ih hk
          induction rest with
          | nil => rfl
          | cons b bs ihb =>
            have hkb : k ≠ b := fun h => hr (by simp [h])
            have hr' : k ∉ bs := fun h => hr (by simp [h])
            by_cases hb : f b = Config.background <;>
              simp [hb, Memory.read, hkb, ihb hr']
      · simp [hv, Memory.read]
    · have hr : k ∈ rest := by simpa [hka] using hk
      by_cases hv : f a = Config.background <;> simp [hv, Memory.read, hka, ih hr]

/-- Every key of the array reads as the fill says. -/
theorem Memory.read_filled (f : Nat → Byte) {k : Nat} (hk : k < Config.arrayBytes) :
    (Memory.filled f).read k = f k :=
  Memory.read_filterMap f _ (List.mem_range.2 hk)

/-! ### Units -/

theorem wordKey_lt (a : BitVec 11) : wordKey a + 1 < Config.arrayBytes := by
  simp only [wordKey, Config.arrayBytes]; omega

theorem byteKey_lt (a : BitVec 11) : byteKey a < Config.arrayBytes := a.isLt

/-- Writing a unit keeps the canonical form. -/
theorem memWrite_wf (org : Org) {m : Memory} (hm : m.wf = true) (a : BitVec 11) (v : Half) :
    (memWrite org m a v).wf = true := by
  cases org with
  | word16 => exact Memory.wf_write (Memory.wf_write hm (Nat.lt_of_succ_lt (wordKey_lt a)) _) (wordKey_lt a) _
  | byte8 => exact Memory.wf_write hm (byteKey_lt a) _

/-- Filling the array gives the canonical form. -/
theorem memFill_wf (org : Org) (v : Half) : (memFill org v).wf = true := by
  cases org <;> exact Memory.wf_filled _

/-- Writing a unit leaves every byte outside it alone. -/
theorem memWrite_read_other (org : Org) (m : Memory) (a : BitVec 11) (v : Half) {k : Nat}
    (h : k ∉ unitKeys org a) : (memWrite org m a v).read k = m.read k := by
  cases org with
  | word16 =>
    simp only [unitKeys, List.mem_cons, List.not_mem_nil, or_false, not_or] at h
    simp [memWrite, Memory.read_write_other _ _ h.2, Memory.read_write_other _ _ h.1]
  | byte8 =>
    simp only [unitKeys, List.mem_singleton] at h
    simp [memWrite, Memory.read_write_other _ _ h]

theorem joinBytes_hi8_lo8 (h : Half) : joinBytes (hi8 h) (lo8 h) = h := by
  simp only [joinBytes, hi8, lo8]
  ext i hi
  simp only [BitVec.getElem_append, BitVec.getElem_extractLsb']
  split <;> simp [BitVec.getLsbD_eq_getElem, hi]
  rename_i h8
  have : 8 + (i - 8) = i := by omega
  simp [this, BitVec.getLsbD_eq_getElem, hi]

/-- The bits of two joined bytes. -/
theorem getLsbD_joinBytes (a b : Byte) (i : Nat) :
    (joinBytes a b).getLsbD i = if i < 8 then b.getLsbD i else a.getLsbD (i - 8) := by
  refine (BitVec.getLsbD_append (x := a) (y := b) (i := i)).trans ?_
  split <;> simp_all

@[simp] theorem hi8_joinBytes (a b : Byte) : hi8 (joinBytes a b) = a := by
  ext i hi
  simp [hi8, getLsbD_joinBytes, BitVec.getLsbD_eq_getElem, hi]

@[simp] theorem lo8_joinBytes (a b : Byte) : lo8 (joinBytes a b) = b := by
  ext i hi
  simp [lo8, getLsbD_joinBytes, BitVec.getLsbD_eq_getElem, hi]

/-- A written unit of a word-organized array reads as the value written. -/
theorem memRead_memWrite_word16 {m : Memory} (hm : m.wf = true) (a : BitVec 11) (v : Half) :
    memRead .word16 (memWrite .word16 m a v) a = v := by
  have hw := Memory.wf_write hm (Nat.lt_of_succ_lt (wordKey_lt a)) (hi8 v)
  have hne : wordKey a ≠ wordKey a + 1 := by omega
  simp [memRead, memWrite, Memory.read_write_same hw, Memory.read_write_other _ _ hne,
    Memory.read_write_same hm, joinBytes_hi8_lo8]

/-- A written unit of a byte-organized array reads as the low byte of the value written. -/
theorem memRead_memWrite_byte8 {m : Memory} (hm : m.wf = true) (a : BitVec 11) (v : Half) :
    memRead .byte8 (memWrite .byte8 m a v) a = zext16 (lo8 v) := by
  simp [memRead, memWrite, Memory.read_write_same hm]

end Sys2Proof.Machine
end

