-- ==== Sys2Proof/Laws/Device.lean ====
section
/-! SUPPORT. What the reference device can do in one reaction. -/

namespace Sys2Proof.Machine

@[simp] theorem commit_attached (d : RefDev) : d.commit.attached = d.attached := by
  unfold RefDev.commit; split <;> (try split) <;> (try split) <;> rfl

@[simp] theorem commit_org (d : RefDev) : d.commit.org = d.org := by
  unfold RefDev.commit; split <;> (try split) <;> (try split) <;> rfl

@[simp] theorem commit_erased (d : RefDev) : d.commit.erased = d.erased := by
  unfold RefDev.commit; split <;> (try split) <;> (try split) <;> rfl

@[simp] theorem commit_tb (d : RefDev) : d.commit.tb = d.tb := by
  unfold RefDev.commit; split <;> (try split) <;> (try split) <;> rfl

@[simp] theorem react_cfg (d : RefDev) : d.react .cfg = d := by
  unfold RefDev.react; split <;> rfl

/-- A device that is not attached sees nothing. -/
theorem react_detached {d : RefDev} (h : d.attached = false) (e : Event) : d.react e = d := by
  simp [RefDev.react, h]

theorem react_select {d : RefDev} (h : d.attached = true) :
    d.react (.cs true) = { d with sel := true, tb := [] } := by
  simp [RefDev.react, h]

theorem react_receive {d : RefDev} (h : d.attached = true) (hs : d.sel = true) (tx rx : Byte) :
    d.react (.x tx rx) = { d with tb := d.tb ++ [tx] } := by
  simp [RefDev.react, h, hs]

theorem react_deselect {d : RefDev} (h : d.attached = true) (hs : d.sel = true) :
    d.react (.cs false) = { d.commit with sel := false } := by
  simp [RefDev.react, h, hs]

@[simp] theorem react_attached (d : RefDev) (e : Event) : (d.react e).attached = d.attached := by
  unfold RefDev.react; split <;> (try split) <;> (try split) <;> simp

@[simp] theorem react_org (d : RefDev) (e : Event) : (d.react e).org = d.org := by
  unfold RefDev.react; split <;> (try split) <;> (try split) <;> simp

@[simp] theorem react_erased (d : RefDev) (e : Event) : (d.react e).erased = d.erased := by
  unfold RefDev.react; split <;> (try split) <;> (try split) <;> simp

/-- Committing keeps the array canonical. -/
theorem commit_wf {d : RefDev} (h : d.mem.wf = true) : d.commit.mem.wf = true := by
  unfold RefDev.commit
  split
  · exact h
  · exact h
  · split
    · exact memFill_wf _ _
    · exact h
  · split
    · split
      · exact memWrite_wf _ h _ _
      · exact h
    · exact h
  · split
    · exact memWrite_wf _ h _ _
    · exact h
  · exact h
  · exact h
  · exact h

/-- A reaction keeps the array canonical. -/
theorem react_wf {d : RefDev} (h : d.mem.wf = true) (e : Event) : (d.react e).mem.wf = true := by
  unfold RefDev.react
  split
  · split
    · exact h
    · split
      · exact commit_wf h
      · exact h
    · split <;> exact h
    · exact h
  · exact h

/-- A commit leaves every byte alone that the command in `TB` does not store to. -/
theorem commit_read_other {d : RefDev} {k : Nat}
    (h : ∀ c, d.command = some c → ¬ storesTo d.org k c) : d.commit.mem.read k = d.mem.read k := by
  unfold RefDev.commit
  split
  · rfl
  · rfl
  · rename_i hc; exact absurd trivial (h _ hc)
  · rename_i a hc
    split
    · split
      · exact memWrite_read_other _ _ _ _ (h _ hc)
      · rfl
    · rfl
  · rename_i a hc
    split
    · exact memWrite_read_other _ _ _ _ (h _ hc)
    · rfl
  · rfl
  · rfl
  · rfl

/-- A commit leaves the whole array alone when the latch is clear (R70: "the device otherwise rejects
them"). -/
theorem commit_mem_protected {d : RefDev} (h : d.wel = false) : d.commit.mem = d.mem := by
  unfold RefDev.commit
  split <;> simp [h]

/-- The device after the events `es`, in order (R66). -/
def RefDev.reactAll (d : RefDev) (es : List Event) : RefDev := es.foldl RefDev.react d

@[simp] theorem reactAll_nil (d : RefDev) : d.reactAll [] = d := rfl

@[simp] theorem reactAll_cons (d : RefDev) (e : Event) (es : List Event) :
    d.reactAll (e :: es) = (d.react e).reactAll es := rfl

@[simp] theorem reactAll_append (d : RefDev) (es fs : List Event) :
    d.reactAll (es ++ fs) = (d.reactAll es).reactAll fs := by
  simp [RefDev.reactAll]

theorem reactAll_attached (d : RefDev) (es : List Event) : (d.reactAll es).attached = d.attached := by
  induction es generalizing d with
  | nil => rfl
  | cons e es ih => simp [ih]

theorem reactAll_org (d : RefDev) (es : List Event) : (d.reactAll es).org = d.org := by
  induction es generalizing d with
  | nil => rfl
  | cons e es ih => simp [ih]

theorem reactAll_erased (d : RefDev) (es : List Event) : (d.reactAll es).erased = d.erased := by
  induction es generalizing d with
  | nil => rfl
  | cons e es ih => simp [ih]

theorem reactAll_detached {d : RefDev} (h : d.attached = false) (es : List Event) : d.reactAll es = d := by
  induction es generalizing d with
  | nil => rfl
  | cons e es ih => simp [react_detached h, ih h]

/-- While selected, a device collects the bytes sent. -/
theorem reactAll_exchanges {d : RefDev} (h : d.attached = true) (hs : d.sel = true) {tx rx : List Byte}
    (hl : rx.length = tx.length) :
    d.reactAll (exchangeEvents tx rx) = { d with tb := d.tb ++ tx } := by
  induction tx generalizing d rx with
  | nil => simp [exchangeEvents]
  | cons b tx ih =>
    cases rx with
    | nil => simp at hl
    | cons r rx =>
      have hl' : rx.length = tx.length := by simpa using hl
      have := ih (d := { d with tb := d.tb ++ [b] }) h hs hl'
      simp only [exchangeEvents, List.zip_cons_cons, List.flatMap_cons, List.cons_append, List.nil_append,
        reactAll_cons, react_cfg, react_receive h hs] at this ⊢
      simpa using this

/-- A whole bracket: the device commits the bytes sent in it (R67, R70). -/
theorem reactAll_bracket {d : RefDev} (h : d.attached = true) {tx rx : List Byte}
    (hl : rx.length = tx.length) :
    d.reactAll (bracketEvents tx rx) =
      { RefDev.commit { d with sel := true, tb := tx } with sel := false } := by
  have hx := reactAll_exchanges (d := { d with sel := true, tb := [] }) h rfl hl
  simp only [bracketEvents, List.cons_append, reactAll_cons, react_select h, reactAll_append, hx,
    reactAll_nil, List.nil_append]
  exact react_deselect h rfl

end Sys2Proof.Machine
end

