-- ==== Sys2Proof/Laws/Transfer.lean ====
section
/-! SUPPORT. The byte transfer: what the environment can answer, and what a transfer does when it
completes and when it does not. -/

namespace Sys2Proof.Machine

/-- What an answer of the environment can be. -/
theorem environmentAnswer_cases {s t : State} (h : environmentAnswer s = some t) :
    (∃ rx rest, s.inputs = .busComplete rx :: rest ∧ t = busComplete rx { s with inputs := rest }) ∨
    s.responsive = true ∧ t = busComplete (Config.freeByte s.draws) { s with draws := s.draws + 1 } := by
  unfold environmentAnswer at h
  split at h
  · rename_i rx rest hi
    exact .inl ⟨rx, rest, hi, by simpa using h.symm⟩
  · split at h
    · rename_i hr
      exact .inr ⟨hr, by simpa using h.symm⟩
    · cases h

theorem environmentAnswer_scripted {s : State} {rx : Byte} {rest : List Input}
    (h : s.inputs = .busComplete rx :: rest) :
    environmentAnswer s = some (busComplete rx { s with inputs := rest }) := by
  simp [environmentAnswer, h]

theorem environmentAnswer_responsive {s : State} (h : ∀ rx rest, s.inputs ≠ .busComplete rx :: rest)
    (hr : s.responsive = true) :
    environmentAnswer s =
      some (busComplete (Config.freeByte s.draws) { s with inputs := s.inputs, draws := s.draws + 1 }) := by
  unfold environmentAnswer
  split
  · rename_i hi; exact absurd hi (h _ _)
  · simp [hr]

theorem environmentAnswer_none {s : State} (h : ∀ rx rest, s.inputs ≠ .busComplete rx :: rest)
    (hr : s.responsive = false) : environmentAnswer s = none := by
  unfold environmentAnswer
  split
  · rename_i hi; exact absurd hi (h _ _)
  · simp [hr]

/-- A responsive environment completes any number of exchanges. -/
theorem completes_responsive (n : Nat) (inputs : List Input) : completes n inputs true = true := by
  induction n generalizing inputs with
  | zero => rfl
  | succ n ih =>
    match inputs with
    | [] => rfl
    | .busComplete b :: rest => exact ih rest
    | .present c :: rest => rfl
    | .busUser b :: rest => rfl

/-- An environment that completes one exchange more answers this one. -/
theorem environmentAnswer_of_completes {s : State} {n : Nat} (h : s.answersNext (n + 1) = true) :
    ∃ draw rest m, environmentAnswer s = some (busComplete draw { s with inputs := rest, draws := m }) ∧
      completes n rest s.responsive = true ∧ rest <:+ s.inputs := by
  by_cases hb : ∃ rx rest, s.inputs = .busComplete rx :: rest
  · obtain ⟨rx, rest, hi⟩ := hb
    exact ⟨rx, rest, s.draws, environmentAnswer_scripted hi, by simpa [State.answersNext, hi, completes] using h,
      by simp [hi]⟩
  · have hne : ∀ rx rest, s.inputs ≠ .busComplete rx :: rest := fun rx rest hi => hb ⟨rx, rest, hi⟩
    have hr : s.responsive = true := by
      unfold State.answersNext at h
      match hi : s.inputs with
      | [] => simpa [hi, completes] using h
      | .busComplete b :: rest => exact absurd hi (hne _ _)
      | .present c :: rest => simpa [hi, completes] using h
      | .busUser b :: rest => simpa [hi, completes] using h
    exact ⟨_, s.inputs, _, environmentAnswer_responsive hne hr, by rw [hr]; exact completes_responsive _ _,
      List.suffix_rfl⟩

/-- From `s` to `t` one byte exchange was performed, `tx` against `rx` (R114). -/
structure Exchanged (s t : State) (tx rx : Byte) : Prop where
  constructed : t.constructed = s.constructed
  cfg : t.cfg = s.cfg
  cs : t.cs = s.cs
  dir : t.dir = s.dir
  seq : t.seq = { s.seq with sub := .cfg, phase := .idle }
  addr : t.addr = s.addr
  value : t.value = s.value
  frame : t.frame = s.frame
  rxhi : t.rxhi = s.rxhi
  rxlo : t.rxlo = s.rxlo
  result : t.result = s.result
  mode : t.bus.inMode0
  txd : t.bus.txd = tx
  rxd : t.bus.rxd = rx
  done : t.bus.done = true
  clk : t.bus.clk = false
  trace : t.trace = s.trace ++ [.cfg, .x tx rx]
  ended : t.ended = s.ended
  dev : t.dev = s.dev.react (.x tx rx)
  responsive : t.responsive = s.responsive
  inputs : t.inputs <:+ s.inputs

theorem configured_inMode0 (b : BusController) : b.configured.inMode0 :=
  ⟨rfl, rfl, rfl, rfl, rfl, rfl⟩

/-- A transfer from its first sub-step, when the environment answers (R114). -/
theorem transferByte_completes {s : State} {n : Nat} (tx : Byte) (hsub : s.seq.sub = .cfg)
    (h : s.answersNext (n + 1) = true) :
    ∃ t draw, transferByte tx s = .completed t ∧ Exchanged s t tx (s.dev.answer draw) ∧
      t.answersNext n = true := by
  have h' : (xferLoad tx (xferConfigure s)).answersNext (n + 1) = true := h
  obtain ⟨draw, rest, m, ha, hc, hr⟩ := environmentAnswer_of_completes h'
  refine ⟨xferTake tx (busComplete draw { xferLoad tx (xferConfigure s) with inputs := rest, draws := m }),
    draw, ?_, ?_, hc⟩
  · have hd : (xferLoad tx (xferConfigure s)).bus.done = false := rfl
    simp only [transferByte, hsub, xferFinish]
    rw [if_neg (by rw [hd]; exact Bool.false_ne_true), ha]
  · have hr' : rest <:+ s.inputs := hr
    constructor <;>
      simp [BusController.finishExchange, BusController.startExchange, BusController.configured,
        BusController.inMode0, hr']

/-- A transfer that the environment does not answer waits, with the byte loaded (R114, R164). -/
theorem transferByte_waits {s t : State} {tx : Byte} (h : transferByte tx s = .waiting t) :
    environmentAnswer t = none ∧ t.bus.done = false ∧ (s.seq.sub ≠ .take) := by
  have key : ∀ u, xferFinish tx u = .waiting t → environmentAnswer t = none ∧ t.bus.done = false := by
    intro u hu
    unfold xferFinish at hu
    split at hu
    · cases hu
    · rename_i hd
      split at hu
      · cases hu
      · rename_i he
        cases hu
        exact ⟨he, by simpa using hd⟩
  unfold transferByte at h
  split at h
  · rename_i hs; exact ⟨(key _ h).1, (key _ h).2, by simp [hs]⟩
  · rename_i hs; exact ⟨(key _ h).1, (key _ h).2, by simp [hs]⟩
  · rename_i hs; exact ⟨(key _ h).1, (key _ h).2, by simp [hs]⟩
  · cases h

end Sys2Proof.Machine
end

