-- ==== Sys2Proof/Laws/Sequencing.lean ====
section
/-! SUPPORT. Sequencing: what one step of a step list can do, the induction over a run, and the run of a
whole bracket. -/

namespace Sys2Proof.Machine

/-! ### One step, inverted -/

/-- A step that transfers nothing completes by its action. -/
theorem performStep_act {st : SeqStep} {s : State} (h : st.sends s = none) :
    performStep st s = .completed (st.act s) := by
  simp [performStep, h]

/-- A transfer step is its transfer, and what it keeps. -/
theorem performStep_transfer {st : SeqStep} {s : State} {tx : Byte} (h : st.sends s = some tx) :
    performStep st s =
      match transferByte tx s with
      | .completed t => .completed (st.keep t)
      | .waiting t => .waiting t := by
  cases ht : transferByte tx s <;> simp [performStep, h, ht]

theorem runSteps_completed {st : SeqStep} {rest : List SeqStep} {s t : State}
    (h : performStep st s = .completed t) : runSteps (st :: rest) s = runSteps rest (nextStep t) := by
  simp [runSteps, h]

theorem runSteps_waiting {st : SeqStep} {rest : List SeqStep} {s t : State}
    (h : performStep st s = .waiting t) : runSteps (st :: rest) s = t := by
  simp [runSteps, h]

/-! ### Relations that every operation of the block keeps -/

/-- A relation between states that each state operation of a run keeps. -/
structure KeptByOps (R : State → State → Prop) : Prop where
  refl : ∀ s, R s s
  trans : ∀ s t u, R s t → R t u → R s u
  assertCs : ∀ f s, R s (assertCs f s)
  deassertCs : ∀ s, R s (deassertCs s)
  configureBus : ∀ s, R s (configureBus s)
  xferConfigure : ∀ s, R s (xferConfigure s)
  xferLoad : ∀ tx s, R s (xferLoad tx s)
  answer : ∀ b rest n s, rest <:+ s.inputs → R s (busComplete b { s with inputs := rest, draws := n })
  xferTake : ∀ tx s, R s (xferTake tx s)
  keepHi : ∀ s, R s (latchRxHi s)
  keepLo : ∀ s, R s (latchRxLo s)
  latchResult : ∀ s, R s (latchResult s)
  nextStep : ∀ s, R s (nextStep s)
  endOperation : ∀ s, R s (endOperation s)

/-- What an answer of the environment does to the state, in one shape. -/
theorem environmentAnswer_shape {s t : State} (h : environmentAnswer s = some t) :
    ∃ b rest n, rest <:+ s.inputs ∧ t = busComplete b { s with inputs := rest, draws := n } := by
  rcases environmentAnswer_cases h with ⟨rx, rest, hi, rfl⟩ | ⟨-, rfl⟩
  · exact ⟨rx, rest, s.draws, by simp [hi], rfl⟩
  · exact ⟨_, s.inputs, _, List.suffix_rfl, rfl⟩

/-- The state that a step leaves, completed or waiting. -/
def Progress.state : Progress → State
  | .completed s => s
  | .waiting s => s

theorem KeptByOps.xferFinish {R : State → State → Prop} (k : KeptByOps R) (tx : Byte) (s : State) :
    R s (xferFinish tx s).state := by
  unfold Sys2Proof.Machine.xferFinish
  split
  · exact k.xferTake tx s
  · split
    · rename_i t ht
      obtain ⟨b, rest, n, hr, rfl⟩ := environmentAnswer_shape ht
      exact k.trans _ _ _ (k.answer b rest n s hr) (k.xferTake tx _)
    · exact k.refl s

theorem KeptByOps.transferByte {R : State → State → Prop} (k : KeptByOps R) (tx : Byte) (s : State) :
    R s (transferByte tx s).state := by
  unfold Sys2Proof.Machine.transferByte
  split
  · exact k.trans _ _ _ (k.trans _ _ _ (k.xferConfigure s) (k.xferLoad tx _)) (k.xferFinish tx _)
  · exact k.trans _ _ _ (k.xferLoad tx s) (k.xferFinish tx _)
  · exact k.xferFinish tx s
  · exact k.xferTake tx s

theorem KeptByOps.keep {R : State → State → Prop} (k : KeptByOps R) (st : SeqStep) (s : State) :
    R s (st.keep s) := by
  cases st with
  | rx d => cases d with
    | rxhi => exact k.keepHi s
    | rxlo => exact k.keepLo s
  | cfgb => exact k.refl s
  | csa kind => exact k.refl s
  | tx e => exact k.refl s
  | csd => exact k.refl s
  | res => exact k.refl s

theorem KeptByOps.act {R : State → State → Prop} (k : KeptByOps R) (st : SeqStep) (s : State) :
    R s (st.act s) := by
  cases st with
  | cfgb => exact k.configureBus s
  | csa kind => exact k.assertCs _ s
  | csd => exact k.deassertCs s
  | res => exact k.latchResult s
  | tx e => exact k.refl s
  | rx d => exact k.refl s

theorem KeptByOps.performStep {R : State → State → Prop} (k : KeptByOps R) (st : SeqStep) (s : State) :
    R s (performStep st s).state := by
  unfold Sys2Proof.Machine.performStep
  split
  · rename_i tx _
    have h := k.transferByte tx s
    split
    · rename_i t ht
      rw [ht] at h
      exact k.trans _ _ _ h (k.keep st t)
    · rename_i t ht
      rw [ht] at h
      exact h
  · exact k.act st s

/-- Such a relation holds between the start and the end of every run. -/
theorem KeptByOps.runSteps {R : State → State → Prop} (k : KeptByOps R) (l : List SeqStep) (s : State) :
    R s (runSteps l s) := by
  induction l generalizing s with
  | nil => exact k.endOperation s
  | cons st rest ih =>
    have h := k.performStep st s
    cases hp : Sys2Proof.Machine.performStep st s with
    | completed t =>
      rw [hp] at h
      rw [runSteps_completed hp]
      exact k.trans _ _ _ (k.trans _ _ _ h (k.nextStep t)) (ih _)
    | waiting t =>
      rw [hp] at h
      rw [runSteps_waiting hp]
      exact h

theorem KeptByOps.runOperation {R : State → State → Prop} (k : KeptByOps R) (s : State) :
    R s (runOperation s) := k.runSteps _ s

/-! ### What is taken when -/

theorem issue_ready {op : SeqOp} {l s : State} (h : s.ready = true) :
    issue op l s = .next (runOperation (takeCommand op l)) := by simp [issue, h]

theorem issue_refused {op : SeqOp} {l s : State} (h : s.ready = false) : issue op l s = .next s := by
  simp [issue, h]

theorem issueFrame_ready {org : Org} {op : SeqOp} {l s : State} (h : s.ready = true) (ho : s.cfg.org = org) :
    issueFrame org op l s = .next (runOperation (takeCommand op l)) := by simp [issueFrame, h, ho]

theorem issueFrame_refused {org : Org} {op : SeqOp} {l s : State} (h : s.ready = false) :
    issueFrame org op l s = .next s := by simp [issueFrame, h]

theorem issueFrame_reserved {org : Org} {op : SeqOp} {l s : State} (h : s.ready = true) (ho : s.cfg.org ≠ org) :
    issueFrame org op l s = .refused .reservedFrame := by simp [issueFrame, h, ho]

theorem ready_iff {s : State} : s.ready = true ↔ s.constructed = true ∧ s.seq.op = .none := by
  simp [State.ready]

theorem inFlight_iff {s : State} : s.inFlight = true ↔ s.constructed = true ∧ s.seq.op ≠ .none := by
  simp [State.inFlight]

/-! ### A step of a run, forwards -/

theorem runSteps_csa (kind : FrameKind) (rest : List SeqStep) (s : State) :
    runSteps (.csa kind :: rest) s = runSteps rest (nextStep (assertCs (frameOf kind s.cfg.org s.addr) s)) :=
  runSteps_completed (performStep_act rfl)

theorem runSteps_csd (rest : List SeqStep) (s : State) :
    runSteps (.csd :: rest) s = runSteps rest (nextStep (deassertCs s)) :=
  runSteps_completed (performStep_act rfl)

theorem runSteps_res (rest : List SeqStep) (s : State) :
    runSteps (.res :: rest) s = runSteps rest (nextStep (latchResult s)) :=
  runSteps_completed (performStep_act rfl)

theorem runSteps_cfgb (rest : List SeqStep) (s : State) :
    runSteps (.cfgb :: rest) s = runSteps rest (nextStep (configureBus s)) :=
  runSteps_completed (performStep_act rfl)

/-- A transfer step that the environment answers, and the run after it. -/
theorem runSteps_transfer {st : SeqStep} {rest : List SeqStep} {s : State} {tx : Byte} {n : Nat}
    (hst : st.sends s = some tx) (hsub : s.seq.sub = .cfg) (h : s.answersNext (n + 1) = true) :
    ∃ t draw, Exchanged s t tx (s.dev.answer draw) ∧ t.answersNext n = true ∧
      runSteps (st :: rest) s = runSteps rest (nextStep (st.keep t)) := by
  obtain ⟨t, draw, ht, hx, hn⟩ := transferByte_completes tx hsub h
  exact ⟨t, draw, hx, hn, runSteps_completed (by rw [performStep_transfer hst, ht])⟩

/-! ### Transfers in a row -/

/-- From `s` to `t` the bytes `tx` were sent in steps that keep nothing, against `rx` (R115). -/
structure Sent (s t : State) (tx rx : List Byte) : Prop where
  len : rx.length = tx.length
  constructed : t.constructed = s.constructed
  cfg : t.cfg = s.cfg
  cs : t.cs = s.cs
  dir : t.dir = s.dir
  op : t.seq.op = s.seq.op
  step : t.seq.step = s.seq.step + tx.length
  sub : t.seq.sub = .cfg
  addr : t.addr = s.addr
  value : t.value = s.value
  frame : t.frame = s.frame
  rxhi : t.rxhi = s.rxhi
  rxlo : t.rxlo = s.rxlo
  result : t.result = s.result
  trace : t.trace = s.trace ++ exchangeEvents tx rx
  ended : t.ended = s.ended
  dev : t.dev = s.dev.reactAll (exchangeEvents tx rx)
  responsive : t.responsive = s.responsive
  nothing : tx = [] → t.bus = s.bus ∧ t.seq.phase = s.seq.phase
  bus : tx ≠ [] → t.bus.inMode0 ∧ t.bus.done = true ∧ t.bus.clk = false ∧ t.seq.phase = .idle

/-- `TX` steps in a row, when the environment answers them all. -/
theorem runSteps_send (es : List TxByte) (rest : List SeqStep) {s : State} {n : Nat}
    (hsub : s.seq.sub = .cfg) (h : s.answersNext (es.length + n) = true) :
    ∃ t rx, Sent s t (es.map fun e => txByte e s) rx ∧ t.answersNext n = true ∧
      runSteps (es.map .tx ++ rest) s = runSteps rest t := by
  induction es generalizing s with
  | nil =>
    refine ⟨s, [], ?_, by simpa using h, rfl⟩
    constructor <;> simp [exchangeEvents, hsub]
  | cons e es ih =>
    have h' : s.answersNext ((es.length + n) + 1) = true := by
      have he : (e :: es).length + n = es.length + n + 1 := by simp; omega
      rwa [he] at h
    obtain ⟨t, draw, hx, hn, hrun⟩ :=
      runSteps_transfer (st := .tx e) (rest := es.map .tx ++ rest) rfl hsub h'
    have hsub' : (nextStep t).seq.sub = .cfg := rfl
    obtain ⟨u, rx, hu, hnu, hrun'⟩ := ih (s := nextStep t) hsub' hn
    have hm : (es.map fun e => txByte e (nextStep t)) = es.map fun e => txByte e s := by
      apply List.map_congr_left
      intro e _
      cases e <;> simp [txByte, hx.frame, hx.value]
    rw [hm] at hu
    refine ⟨u, s.dev.answer draw :: rx, ?_, hnu, ?_⟩
    · constructor
      · simp [hu.len]
      · simp [hu.constructed, hx.constructed]
      · simp [hu.cfg, hx.cfg]
      · simp [hu.cs, hx.cs]
      · simp [hu.dir, hx.dir]
      · simp [hu.op, hx.seq]
      · simp [hu.step, hx.seq]; omega
      · exact hu.sub
      · simp [hu.addr, hx.addr]
      · simp [hu.value, hx.value]
      · simp [hu.frame, hx.frame]
      · simp [hu.rxhi, hx.rxhi]
      · simp [hu.rxlo, hx.rxlo]
      · simp [hu.result, hx.result]
      · simp [hu.trace, hx.trace, exchangeEvents]
      · simp [hu.ended, hx.ended]
      · simp [hu.dev, hx.dev, exchangeEvents]
      · simp [hu.responsive, hx.responsive]
      · simp
      · intro _
        cases es with
        | nil =>
          have : u.bus = t.bus ∧ u.seq.phase = t.seq.phase := hu.nothing rfl
          exact ⟨this.1 ▸ hx.mode, this.1 ▸ hx.done, this.1 ▸ hx.clk, by simp [this.2, hx.seq]⟩
        | cons e' es' => exact hu.bus (by simp)
    · simpa using hrun.trans hrun'

/-- From `s` to `t` one whole bracket was performed: frame `f`, bytes `tx` against `rx` (R118). -/
structure Bracketed (s t : State) (f : Half) (tx rx : List Byte) : Prop where
  len : rx.length = tx.length
  constructed : t.constructed = s.constructed
  cfg : t.cfg = s.cfg
  cs : t.cs = .deasserted
  dir : t.dir = s.dir
  op : t.seq.op = s.seq.op
  step : t.seq.step = s.seq.step + tx.length + 2
  sub : t.seq.sub = .cfg
  phase : t.seq.phase = .idle
  addr : t.addr = s.addr
  value : t.value = s.value
  frame : t.frame = f
  rxhi : t.rxhi = s.rxhi
  rxlo : t.rxlo = s.rxlo
  result : t.result = s.result
  mode : t.bus.inMode0
  done : t.bus.done = true
  clk : t.bus.clk = false
  trace : t.trace = s.trace ++ bracketEvents tx rx
  ended : t.ended = s.ended
  dev : t.dev = s.dev.reactAll (bracketEvents tx rx)
  responsive : t.responsive = s.responsive

/-- The bytes of `TX` expressions against a given frame and value (R120). -/
def txByteOf (f v : Half) : TxByte → Byte
  | .frameHi => hi8 f
  | .frameLo => lo8 f
  | .valueHi => hi8 v
  | .valueLo => lo8 v

/-- A bracket of `TX` steps, when the environment answers them all. -/
theorem runSteps_bracket (kind : FrameKind) {es : List TxByte} (hes : es ≠ []) (rest : List SeqStep)
    {s : State} {n : Nat} (h : s.answersNext (es.length + n) = true) :
    ∃ t rx, Bracketed s t (frameOf kind s.cfg.org s.addr)
        (es.map (txByteOf (frameOf kind s.cfg.org s.addr) s.value)) rx ∧
      t.answersNext n = true ∧
      runSteps (.csa kind :: (es.map .tx ++ .csd :: rest)) s = runSteps rest t := by
  obtain ⟨t, rx, ht, hn, hrun⟩ := runSteps_send es (.csd :: rest)
    (s := nextStep (assertCs (frameOf kind s.cfg.org s.addr) s)) (n := n) rfl h
  have hm : (es.map fun e => txByte e (nextStep (assertCs (frameOf kind s.cfg.org s.addr) s))) =
      es.map (txByteOf (frameOf kind s.cfg.org s.addr) s.value) := by
    apply List.map_congr_left
    intro e _
    cases e <;> rfl
  rw [hm] at ht
  have hne : es.map (txByteOf (frameOf kind s.cfg.org s.addr) s.value) ≠ [] := by simpa using hes
  obtain ⟨hm0, hd, hc, hp⟩ := ht.bus hne
  refine ⟨nextStep (deassertCs t), rx, ?_, hn, by rw [runSteps_csa, hrun, runSteps_csd]⟩
  constructor
  · exact ht.len
  · simp [ht.constructed]
  · simp [ht.cfg]
  · simp
  · simp [ht.dir]
  · simp [ht.op]
  · simp [ht.step]; omega
  · simp
  · simp [hp]
  · simp [ht.addr]
  · simp [ht.value]
  · simp [ht.frame]
  · simp [ht.rxhi]
  · simp [ht.rxlo]
  · simp [ht.result]
  · exact hm0
  · exact hd
  · exact hc
  · simp [ht.trace, bracketEvents]
  · simp [ht.ended]
  · simp [ht.dev, bracketEvents]
  · simp [ht.responsive]

end Sys2Proof.Machine
end

