-- ==== Sys2Proof/Laws/Operations.lean ====
section
/-! SUPPORT. What the run of each operation does, once for each: the operations of one frame, the write
bracket alone, `writeValue` and `readValue`, when the environment answers all their exchanges. -/

namespace Sys2Proof.Machine

theorem runOperation_takeCommand (op : SeqOp) (l : State) :
    runOperation (takeCommand op l) = runSteps (stepList op l.cfg.org) (takeCommand op l) := rfl

/-- An environment that answers `n` exchanges answers any smaller number of them. -/
theorem completes_mono : ∀ (n m : Nat) (l : List Input) (r : Bool), m ≤ n → completes n l r = true →
    completes m l r = true := by
  intro n
  induction n with
  | zero =>
    intro m l r hm _
    obtain rfl : m = 0 := by omega
    rfl
  | succ n ih =>
    intro m l r hm h
    cases m with
    | zero => rfl
    | succ m =>
      match l with
      | [] => exact h
      | .busComplete b :: rest => exact ih m rest r (by omega) h
      | .present c :: rest => exact h
      | .busUser c :: rest => exact h

theorem answersNext_mono {s : State} {m n : Nat} (h : s.answersNext n = true) (hmn : m ≤ n) :
    s.answersNext m = true := completes_mono n m _ _ hmn h

/-! ### Frames and their bytes -/

theorem frameOf_write (o : Org) (a : Half) : frameOf .write o a = writeFrame o a := by cases o <;> rfl

theorem frameOf_read (o : Org) (a : Half) : frameOf .read o a = readFrame o a := by cases o <;> rfl

theorem frameOf_eraseOne (o : Org) (a : Half) : frameOf .eraseOne o a = eraseOneFrame o a := by
  cases o <;> rfl

theorem frameBytes_enable (o : Org) (a : Half) : frameBytes (frameOf .enable o a) = enableBytes o := by
  show frameBytes (shiftOrg o (baseOpcode .enable)) = _
  cases o <;> decide

theorem frameBytes_disable (o : Org) (a : Half) : frameBytes (frameOf .disable o a) = disableBytes o := by
  show frameBytes (shiftOrg o (baseOpcode .disable)) = _
  cases o <;> decide

theorem frameBytes_eraseAll (o : Org) (a : Half) : frameBytes (frameOf .eraseAll o a) = eraseAllBytes o := by
  show frameBytes (shiftOrg o (baseOpcode .eraseAll)) = _
  cases o <;> decide

/-- The two bytes of a frame determine it. -/
theorem frameBytes_injective {f g : Half} (h : frameBytes f = frameBytes g) : f = g := by
  have h' := congrArg (fun l => joinBytes (l.getD 0 0) (l.getD 1 0)) h
  simpa [frameBytes, joinBytes_hi8_lo8] using h'

/-! ### The device through a bracket -/

/-- The command that the device has received after the two bytes of a frame (R68). -/
theorem command_frameBytes (d : RefDev) (f : Half) (rest : List Byte) :
    RefDev.command { d with sel := true, tb := frameBytes f ++ rest } = some (decodeFrame d.org f) := by
  simp [RefDev.command, frameBytes, joinBytes_hi8_lo8]

/-- A bracket changes no byte but those its frame stores to (R70). -/
theorem bracket_read_other {d : RefDev} {f : Half} {data rx : List Byte} {k : Nat}
    (hl : rx.length = (frameBytes f ++ data).length)
    (h : ¬ storesTo d.org k (decodeFrame d.org f)) :
    (d.reactAll (bracketEvents (frameBytes f ++ data) rx)).mem.read k = d.mem.read k := by
  by_cases ha : d.attached = true
  · rw [reactAll_bracket ha hl]
    refine (commit_read_other (d := { d with sel := true, tb := frameBytes f ++ data }) ?_)
    intro c hc
    rw [command_frameBytes] at hc
    cases hc
    exact h
  · rw [reactAll_detached (by simpa using ha)]

/-! ### From a bracket to the end of an operation -/

theorem Bracketed.setting {s t : State} {f : Half} {tx rx : List Byte} (h : Bracketed s t f tx rx) : SameSetting s t :=
  ⟨h.constructed, h.cfg, h.dir, h.responsive, by rw [h.dev, reactAll_attached], by rw [h.dev, reactAll_org], by rw [h.dev, reactAll_erased]⟩

theorem Bracketed.ranToEnd {op : SeqOp} {l t : State} {f : Half} {tx rx : List Byte}
    (h : Bracketed (takeCommand op l) t f tx rx) :
    RanToEnd l (endOperation t) (bracketEvents tx rx) := by
  have hs := h.setting
  constructor
  · exact ⟨hs.constructed, hs.cfg, hs.dir, hs.responsive, hs.attached, hs.devOrg, hs.erased⟩
  · simpa using h.trace
  · simp [Sequencer.atRest, h.phase]
  · simpa using h.cs
  · simp [h.ended]
  · simpa using h.mode
  · simpa using h.done
  · simpa using h.clk

theorem RanToEnd.of_latchAddr {a : Half} {s t : State} {es : List Event}
    (h : RanToEnd (latchAddr a s) t es) : RanToEnd s t es :=
  ⟨⟨h.setting.constructed, h.setting.cfg, h.setting.dir, h.setting.responsive, h.setting.attached, h.setting.devOrg, h.setting.erased⟩,
   h.trace, h.seq, h.cs, h.ended, h.bus, h.done, h.clk⟩

theorem RanToEnd.of_latchValue {v : Half} {s t : State} {es : List Event}
    (h : RanToEnd (latchValue v s) t es) : RanToEnd s t es :=
  ⟨⟨h.setting.constructed, h.setting.cfg, h.setting.dir, h.setting.responsive, h.setting.attached, h.setting.devOrg, h.setting.erased⟩,
   h.trace, h.seq, h.cs, h.ended, h.bus, h.done, h.clk⟩

/-! ### The operations -/

/-- An operation of one frame and nothing else (R130 to R132, R144). -/
theorem run_frameBracket (op : SeqOp) (kind : FrameKind) (l : State) {n : Nat} (hop : ∀ o, stepList op o = frameBracket kind)
    (h : l.answersNext (2 + n) = true) :
    ∃ t rx, Bracketed (takeCommand op l) t (frameOf kind l.cfg.org l.addr)
      (frameBytes (frameOf kind l.cfg.org l.addr)) rx ∧
      t.answersNext n = true ∧ runOperation (takeCommand op l) = endOperation t := by
  obtain ⟨t, rx, hb, hn, hr⟩ := runSteps_bracket kind (es := [.frameHi, .frameLo]) (by simp) []
    (s := takeCommand op l) (n := n) h
  refine ⟨t, rx, hb, hn, ?_⟩
  rw [runOperation_takeCommand, hop]
  exact hr

/-- The bytes that the write bracket sends, as `TX` expressions (R120). -/
def writeTx : Org → List TxByte
  | .word16 => [.frameHi, .frameLo, .valueHi, .valueLo]
  | .byte8 => [.frameHi, .frameLo, .valueLo]

theorem writeBracket_shape (o : Org) : writeBracket o = .csa .write :: ((writeTx o).map .tx ++ [.csd]) := by
  cases o <;> rfl

theorem writeTx_bytes (o : Org) (f v : Half) :
    (writeTx o).map (txByteOf f v) = frameBytes f ++ valueBytes o v := by cases o <;> rfl

theorem writeTx_length (o : Org) : (writeTx o).length + 4 = writeExchanges o := by cases o <;> rfl

/-- The write bracket alone (R91). -/
theorem run_writeBracket (l : State) {n : Nat}
    (h : l.answersNext ((writeTx l.cfg.org).length + n) = true) :
    ∃ t rx, Bracketed (takeCommand .writeBracket l) t (writeFrame l.cfg.org l.addr)
      (writeBytes l.cfg.org l.addr l.value) rx ∧
      t.answersNext n = true ∧ runOperation (takeCommand .writeBracket l) = endOperation t := by
  obtain ⟨t, rx, hb, hn, hr⟩ := runSteps_bracket .write (es := writeTx l.cfg.org)
    (by cases l.cfg.org <;> simp [writeTx]) [] (s := takeCommand .writeBracket l) (n := n) h
  rw [writeTx_bytes, frameOf_write] at hb
  refine ⟨t, rx, hb, hn, ?_⟩
  rw [runOperation_takeCommand]
  show _ = runSteps [] t
  rw [← hr]
  congr 1
  exact writeBracket_shape _

/-- `writeValue` (R140). -/
theorem run_writeValue (l : State) {n : Nat} (h : l.answersNext (writeExchanges l.cfg.org + n) = true) :
    ∃ t r0 r1 r2, runOperation (takeCommand .writeValue l) = t ∧
      r0.length = 2 ∧ r1.length = (writeBytes l.cfg.org l.addr l.value).length ∧ r2.length = 2 ∧
      RanToEnd l t (bracketEvents (enableBytes l.cfg.org) r0 ++
        bracketEvents (writeBytes l.cfg.org l.addr l.value) r1 ++ bracketEvents (disableBytes l.cfg.org) r2) ∧
      t.frame = frameOf .disable l.cfg.org l.addr ∧ t.addr = l.addr ∧ t.value = l.value ∧ t.rxhi = l.rxhi ∧
      t.rxlo = l.rxlo ∧ t.result = l.result ∧
      t.dev = l.dev.reactAll (bracketEvents (enableBytes l.cfg.org) r0 ++
        bracketEvents (writeBytes l.cfg.org l.addr l.value) r1 ++ bracketEvents (disableBytes l.cfg.org) r2) ∧
      t.answersNext n = true := by
  have hlen := writeTx_length l.cfg.org
  have h0 : (takeCommand .writeValue l).answersNext ([TxByte.frameHi, .frameLo].length + ((writeTx l.cfg.org).length + (2 + n))) = true := by
    have : [TxByte.frameHi, .frameLo].length + ((writeTx l.cfg.org).length + (2 + n)) = writeExchanges l.cfg.org + n := by
      simp; omega
    rw [this]; exact h
  obtain ⟨t1, r0, b1, n1, e1⟩ := runSteps_bracket .enable (es := [.frameHi, .frameLo]) (by simp)
    (writeBracket l.cfg.org ++ frameBracket .disable) h0
  have c1 : t1.cfg = l.cfg := b1.cfg
  have n1' : t1.answersNext ((writeTx t1.cfg.org).length + (2 + n)) = true := by rw [c1]; exact n1
  obtain ⟨t2, r1, b2, n2, e2⟩ := runSteps_bracket .write (es := writeTx t1.cfg.org) (by cases t1.cfg.org <;> simp [writeTx])
    (frameBracket .disable) (s := t1) n1'
  obtain ⟨t3, r2, b3, n3, e3⟩ := runSteps_bracket .disable (es := [.frameHi, .frameLo]) (by simp)
    [] (s := t2) (n := n) n2
  have c2 : t2.cfg = l.cfg := by rw [b2.cfg, c1]
  have a1 : t1.addr = l.addr := b1.addr
  have a2 : t2.addr = l.addr := by rw [b2.addr, a1]
  have v1 : t1.value = l.value := b1.value
  rw [writeTx_bytes] at b2
  have m0 : ∀ f v, [TxByte.frameHi, .frameLo].map (txByteOf f v) = frameBytes f := fun _ _ => rfl
  rw [m0] at b1 b3
  rw [frameBytes_enable] at b1
  rw [frameBytes_disable] at b3
  rw [c1, a1, v1, frameOf_write] at b2
  rw [c2] at b3
  have hrun : runOperation (takeCommand .writeValue l) = endOperation t3 := by
    rw [runOperation_takeCommand]
    show runSteps (frameBracket .enable ++ writeBracket l.cfg.org ++ frameBracket .disable) _ = _
    rw [List.append_assoc]
    refine e1.trans ?_
    have : writeBracket l.cfg.org ++ frameBracket .disable = .csa .write :: ((writeTx t1.cfg.org).map .tx ++ .csd :: frameBracket .disable) := by
      rw [c1, writeBracket_shape]; simp
    rw [this, e2]
    exact e3
  refine ⟨_, r0, r1, r2, rfl, ?_, ?_, ?_, ?_, ?_, ?_, ?_, ?_, ?_, ?_, ?_, ?_⟩ <;> try rw [hrun]
  · have := b1.len; rw [this]; cases (takeCommand .writeValue l).cfg.org <;> rfl
  · simpa [writeBytes] using b2.len
  · have := b3.len; rw [this]; cases l.cfg.org <;> rfl
  · have s1 := b1.setting
    have s2 := b2.setting
    have s3 := b3.setting
    constructor
    · constructor
      · simp [s3.constructed, s2.constructed, s1.constructed]
      · simp [s3.cfg, s2.cfg, s1.cfg]
      · simp [s3.dir, s2.dir, s1.dir]
      · simp [s3.responsive, s2.responsive, s1.responsive]
      · simp [s3.attached, s2.attached, s1.attached]
      · simp [s3.devOrg, s2.devOrg, s1.devOrg]
      · simp [s3.erased, s2.erased, s1.erased]
    · simp [b3.trace, b2.trace, b1.trace, writeBytes]
    · simp [Sequencer.atRest, b3.phase]
    · simpa using b3.cs
    · simp [b3.ended, b2.ended, b1.ended]
    · simpa using b3.mode
    · simpa using b3.done
    · simpa using b3.clk
  · simp [b3.frame, a2]
  · simp [b3.addr, a2]
  · simp [b3.value, b2.value, v1]
  · simp [b3.rxhi, b2.rxhi, b1.rxhi]
  · simp [b3.rxlo, b2.rxlo, b1.rxlo]
  · simp [b3.result, b2.result, b1.result]
  · simp [b3.dev, b2.dev, b1.dev, writeBytes]
  · exact n3

theorem zext16_eq_append (x : Byte) : zext16 x = (0#8 ++ x : BitVec (8+8)) := by
  apply BitVec.eq_of_toNat_eq
  rw [BitVec.toNat_append]
  simp [zext16]
  omega

/-- `readValue` (R142). -/
theorem run_readValue (l : State) {n : Nat} (h : l.answersNext (4 + n) = true) :
    ∃ (t : State) (r0 r1 hi lo d2 d3 : Byte), runOperation (takeCommand .readValue l) = t ∧
      hi = (l.dev.reactAll
        (.cs true :: exchangeEvents (frameBytes (readFrame l.cfg.org l.addr)) [r0, r1])).answer d2 ∧
      lo = ((l.dev.reactAll
        (.cs true :: exchangeEvents (frameBytes (readFrame l.cfg.org l.addr)) [r0, r1])).react
          (.x Config.dummyTx hi)).answer d3 ∧
      RanToEnd l t (bracketEvents (readBytes l.cfg.org l.addr) [r0, r1, hi, lo]) ∧
      t.frame = readFrame l.cfg.org l.addr ∧ t.addr = l.addr ∧ t.value = l.value ∧ t.rxhi = hi ∧
      t.rxlo = lo ∧ t.result = assembleResult l.cfg.org hi lo ∧
      t.dev = l.dev.reactAll (bracketEvents (readBytes l.cfg.org l.addr) [r0, r1, hi, lo]) ∧
      t.answersNext n = true := by
  have h : l.answersNext (2 + (2 + n)) = true := by rwa [← Nat.add_assoc]
  rw [readBytes, ← frameOf_read]
  set f := frameOf .read l.cfg.org l.addr with hf
  set s1 := nextStep (assertCs f (takeCommand .readValue l)) with hs1
  obtain ⟨t, rx, ht, hn, hrun⟩ := runSteps_send [.frameHi, .frameLo] [.rx .rxhi, .rx .rxlo, .csd, .res]
    (s := s1) (n := 2 + n) rfl h
  obtain ⟨hm0, hd, hc, hp⟩ := ht.bus (by simp)
  obtain ⟨t2, d2, hx2, hn2, hrun2⟩ := runSteps_transfer (st := .rx .rxhi) (rest := [.rx .rxlo, .csd, .res]) rfl ht.sub (n := 1 + n) (by rwa [Nat.add_assoc 1 n 1, Nat.add_comm n 1, ← Nat.add_assoc])
  obtain ⟨t3, d3, hx3, hn3, hrun3⟩ := runSteps_transfer (st := .rx .rxlo) (rest := [.csd, .res])
     (s := nextStep (SeqStep.keep (.rx .rxhi) t2)) rfl rfl (n := n) (by rwa [Nat.add_comm n 1])
  obtain ⟨r0, r1, rfl⟩ : ∃ r0 r1, rx = [r0, r1] := by
    have := ht.len
    match rx, this with
    | [a, b], _ => exact ⟨a, b, rfl⟩
  refine ⟨_, r0, r1, _, _, d2, d3, rfl, rfl, rfl, ?_⟩
  have hrunall : runOperation (takeCommand .readValue l) =
     endOperation (nextStep (latchResult (nextStep (deassertCs (nextStep (SeqStep.keep (.rx .rxlo) t3)))))) := by
    rw [runOperation_takeCommand]
    show runSteps (.csa .read :: ([.frameHi, .frameLo].map .tx ++ [.rx .rxhi, .rx .rxlo, .csd, .res])) _ = _
    rw [runSteps_csa]
    show runSteps _ s1 = _
    rw [hrun, hrun2, hrun3, runSteps_csd, runSteps_res]; rfl
  rw [hrunall]
  have hmap : ([TxByte.frameHi, .frameLo].map fun e => txByte e s1) = frameBytes f := rfl
  rw [hmap] at ht
  have dv : t.dev = l.dev.reactAll (.cs true :: exchangeEvents (frameBytes f) [r0, r1]) := by
    rw [ht.dev]; simp [hs1]
  simp only [SeqStep.keep] at *
  have hxd3 := hx3.dev
  have hxr3 := hx3.rxd
  simp only [nextStep_dev, latchRxHi_dev, hx2.dev, dv] at hxd3 hxr3
  have hxr2 := hx2.rxd
  rw [dv] at hxr2
  refine ⟨?_, ?_, ?_, ?_, ?_, ?_, ?_, ?_, hn3⟩
  · constructor
    · constructor
      · simp [hx3.constructed, hx2.constructed, ht.constructed, hs1]
      · simp [hx3.cfg, hx2.cfg, ht.cfg, hs1]
      · simp [hx3.dir, hx2.dir, ht.dir, hs1]
      · simp [hx3.responsive, hx2.responsive, ht.responsive, hs1]
      · simp [hxd3, reactAll_attached]
      · simp [hxd3, reactAll_org]
      · simp [hxd3, reactAll_erased]
    · have e2 := hx2.dev
      rw [dv] at e2
      have h3 := hx3.trace
      simp only [nextStep_dev, latchRxHi_dev, nextStep_trace, latchRxHi_trace, hx2.trace, ht.trace, e2, dv] at h3
      simp only [endOperation_trace, nextStep_trace, latchResult_trace, deassertCs_trace, latchRxLo_trace, h3]
      simp [bracketEvents, exchangeEvents, frameBytes, hs1]
    · simp [Sequencer.atRest, hx3.seq]
    · simp
    · simp [hx3.ended, hx2.ended, ht.ended, hs1]
    · simpa using hx3.mode
    · simpa using hx3.done
    · simpa using hx3.clk
  · simp [hx3.frame, hx2.frame, ht.frame, hs1]
  · simp [hx3.addr, hx2.addr, ht.addr, hs1]
  · simp [hx3.value, hx2.value, ht.value, hs1]
  · simp [hx3.rxhi, hxr2]
  · simp [hxr3]
  · simp [hx3.rxhi, hxr2, hxr3, hx3.cfg, hx2.cfg, ht.cfg, hs1]
  · simp [hxd3, bracketEvents, exchangeEvents, frameBytes]

end Sys2Proof.Machine
end

