-- ==== Sys2Proof/Laws/PerInstr.lean ====
section
/-! SUPPORT. Statements made for each instruction. `InPattern`: the encoding of an instruction carries the
fixed bits of its own row of spec/opcode_table.json (`match` under `mask`), whatever its operands, and its
operand field in the bits that the mask leaves. -/

namespace Sys2Proof.Laws

/-- The `match` and `mask` columns of the row of an instruction (R99). -/
def tableRow : Instr → Half × Half
  | .configureBus => (0, 0x7)
  | .enableWrite => (1, 0x7)
  | .disableWrite => (2, 0x7)
  | .eraseAll => (3, 0x7)
  | .writeValue _ _ => (4, 0x7)
  | .readValue _ => (5, 0x7)
  | .eraseOne _ => (6, 0x7)
  | .construct _ _ => (0, 0)
  | .enableWriteW _ => (0x1300, 0xFF00)
  | .enableWriteB _ => (0x2600, 0xFE00)
  | .disableWriteW _ => (0x1000, 0xFF00)
  | .disableWriteB _ => (0x2000, 0xFE00)
  | .eraseAllW _ => (0x1100, 0xFF00)
  | .eraseAllB _ => (0x2200, 0xFE00)
  | .writeW _ => (0x1400, 0xFC00)
  | .writeB _ => (0x2800, 0xF800)
  | .readW _ => (0x1800, 0xFC00)
  | .readB _ => (0x3000, 0xF800)
  | .eraseOneW _ => (0x1C00, 0xFC00)
  | .eraseOneB _ => (0x3800, 0xF800)

/-- The bits that the table gives the row of an encoded instruction: the three of `cmd.op`, the sixteen of a
frame, none for the reset event (R99). -/
def tableBits : Code → Half
  | .host op _ _ => op.setWidth 16
  | .reset _ _ => 0
  | .frame f => f

/-- The operand field of a row that has one inside its table bits. -/
def tableField : Instr → Half
  | .configureBus => 0
  | .enableWrite => 0
  | .disableWrite => 0
  | .eraseAll => 0
  | .writeValue _ _ => 0
  | .readValue _ => 0
  | .eraseOne _ => 0
  | .construct _ _ => 0
  | .enableWriteW x8 => x8.setWidth 16
  | .enableWriteB x9 => x9.setWidth 16
  | .disableWriteW x8 => x8.setWidth 16
  | .disableWriteB x9 => x9.setWidth 16
  | .eraseAllW x8 => x8.setWidth 16
  | .eraseAllB x9 => x9.setWidth 16
  | .writeW a10 => a10.setWidth 16
  | .writeB a11 => a11.setWidth 16
  | .readW a10 => a10.setWidth 16
  | .readB a11 => a11.setWidth 16
  | .eraseOneW a10 => a10.setWidth 16
  | .eraseOneB a11 => a11.setWidth 16

/-- Under the mask the table bits of the encoding are the row's, and outside it they are the operand. -/
def InPattern.Statement (i : Instr) : Prop :=
  tableBits (encode i) &&& (tableRow i).2 = (tableRow i).1 ∧
    tableBits (encode i) &&& ~~~(tableRow i).2 = tableField i

theorem frameFW_fixed (op2 : BitVec 2) (a : BitVec 10) : frameFW op2 a &&& 0xFC00 = frameFW op2 0 := by
  have h : ∀ b : BitVec 10, frameFW op2 b = ((0b0001#4 ++ op2) ++ b : BitVec (4 + 2 + 10)) := fun _ => rfl
  apply BitVec.eq_of_getLsbD_eq
  intro i hi
  rw [h, h]
  simp only [BitVec.getLsbD_and, BitVec.getLsbD_append]
  interval_cases i <;> simp

theorem frameFW_operand (op2 : BitVec 2) (a : BitVec 10) : frameFW op2 a &&& ~~~0xFC00 = a.setWidth 16 := by
  have h : ∀ b : BitVec 10, frameFW op2 b = ((0b0001#4 ++ op2) ++ b : BitVec (4 + 2 + 10)) := fun _ => rfl
  apply BitVec.eq_of_getLsbD_eq
  intro i hi
  rw [h]
  simp only [BitVec.getLsbD_and, BitVec.getLsbD_append, BitVec.getLsbD_setWidth]
  interval_cases i <;> simp

theorem frameFWFixed_fixed (sub2 : BitVec 2) (a : BitVec 8) : frameFWFixed sub2 a &&& 0xFF00 = frameFWFixed sub2 0 := by
  have h : ∀ b : BitVec 8, frameFWFixed sub2 b = ((0b000100#6 ++ sub2) ++ b : BitVec (6 + 2 + 8)) := fun _ => rfl
  apply BitVec.eq_of_getLsbD_eq
  intro i hi
  rw [h, h]
  simp only [BitVec.getLsbD_and, BitVec.getLsbD_append]
  interval_cases i <;> simp

theorem frameFWFixed_operand (sub2 : BitVec 2) (a : BitVec 8) : frameFWFixed sub2 a &&& ~~~0xFF00 = a.setWidth 16 := by
  have h : ∀ b : BitVec 8, frameFWFixed sub2 b = ((0b000100#6 ++ sub2) ++ b : BitVec (6 + 2 + 8)) := fun _ => rfl
  apply BitVec.eq_of_getLsbD_eq
  intro i hi
  rw [h]
  simp only [BitVec.getLsbD_and, BitVec.getLsbD_append, BitVec.getLsbD_setWidth]
  interval_cases i <;> simp

theorem frameFB_fixed (op2 : BitVec 2) (a : BitVec 11) : frameFB op2 a &&& 0xF800 = frameFB op2 0 := by
  have h : ∀ b : BitVec 11, frameFB op2 b = ((0b001#3 ++ op2) ++ b : BitVec (3 + 2 + 11)) := fun _ => rfl
  apply BitVec.eq_of_getLsbD_eq
  intro i hi
  rw [h, h]
  simp only [BitVec.getLsbD_and, BitVec.getLsbD_append]
  interval_cases i <;> simp

theorem frameFB_operand (op2 : BitVec 2) (a : BitVec 11) : frameFB op2 a &&& ~~~0xF800 = a.setWidth 16 := by
  have h : ∀ b : BitVec 11, frameFB op2 b = ((0b001#3 ++ op2) ++ b : BitVec (3 + 2 + 11)) := fun _ => rfl
  apply BitVec.eq_of_getLsbD_eq
  intro i hi
  rw [h]
  simp only [BitVec.getLsbD_and, BitVec.getLsbD_append, BitVec.getLsbD_setWidth]
  interval_cases i <;> simp

theorem frameFBFixed_fixed (sub2 : BitVec 2) (a : BitVec 9) : frameFBFixed sub2 a &&& 0xFE00 = frameFBFixed sub2 0 := by
  have h : ∀ b : BitVec 9, frameFBFixed sub2 b = ((0b00100#5 ++ sub2) ++ b : BitVec (5 + 2 + 9)) := fun _ => rfl
  apply BitVec.eq_of_getLsbD_eq
  intro i hi
  rw [h, h]
  simp only [BitVec.getLsbD_and, BitVec.getLsbD_append]
  interval_cases i <;> simp

theorem frameFBFixed_operand (sub2 : BitVec 2) (a : BitVec 9) : frameFBFixed sub2 a &&& ~~~0xFE00 = a.setWidth 16 := by
  have h : ∀ b : BitVec 9, frameFBFixed sub2 b = ((0b00100#5 ++ sub2) ++ b : BitVec (5 + 2 + 9)) := fun _ => rfl
  apply BitVec.eq_of_getLsbD_eq
  intro i hi
  rw [h]
  simp only [BitVec.getLsbD_and, BitVec.getLsbD_append, BitVec.getLsbD_setWidth]
  interval_cases i <;> simp

theorem hostOp_bits (op : BitVec 3) :
    op.setWidth 16 &&& (0x7 : Half) = op.setWidth 16 ∧ op.setWidth 16 &&& ~~~(0x7 : Half) = 0 := by
  revert op
  decide

theorem InPattern.configureBus : InPattern.Statement (.configureBus) :=
  ⟨(hostOp_bits 0).1.trans (by decide : (BitVec.setWidth 16 0#3 : Half) = 0), (hostOp_bits 0).2⟩

theorem InPattern.enableWrite : InPattern.Statement (.enableWrite) :=
  ⟨(hostOp_bits 1).1.trans (by decide : (BitVec.setWidth 16 1#3 : Half) = 1), (hostOp_bits 1).2⟩

theorem InPattern.disableWrite : InPattern.Statement (.disableWrite) :=
  ⟨(hostOp_bits 2).1.trans (by decide : (BitVec.setWidth 16 2#3 : Half) = 2), (hostOp_bits 2).2⟩

theorem InPattern.eraseAll : InPattern.Statement (.eraseAll) :=
  ⟨(hostOp_bits 3).1.trans (by decide : (BitVec.setWidth 16 3#3 : Half) = 3), (hostOp_bits 3).2⟩

theorem InPattern.writeValue (address value : Half) : InPattern.Statement (.writeValue address value) :=
  ⟨(hostOp_bits 4).1.trans (by decide : (BitVec.setWidth 16 4#3 : Half) = 4), (hostOp_bits 4).2⟩

theorem InPattern.readValue (address : Half) : InPattern.Statement (.readValue address) :=
  ⟨(hostOp_bits 5).1.trans (by decide : (BitVec.setWidth 16 5#3 : Half) = 5), (hostOp_bits 5).2⟩

theorem InPattern.eraseOne (address : Half) : InPattern.Statement (.eraseOne address) :=
  ⟨(hostOp_bits 6).1.trans (by decide : (BitVec.setWidth 16 6#3 : Half) = 6), (hostOp_bits 6).2⟩

theorem InPattern.construct (line : LineId) (org : Org) : InPattern.Statement (.construct line org) := by
  simp [InPattern.Statement, tableBits, encode, tableRow, tableField]

theorem InPattern.enableWriteW (x8 : BitVec 8) : InPattern.Statement (.enableWriteW x8) :=
  ⟨frameFWFixed_fixed 0b11 x8, frameFWFixed_operand 0b11 x8⟩

theorem InPattern.enableWriteB (x9 : BitVec 9) : InPattern.Statement (.enableWriteB x9) :=
  ⟨frameFBFixed_fixed 0b11 x9, frameFBFixed_operand 0b11 x9⟩

theorem InPattern.disableWriteW (x8 : BitVec 8) : InPattern.Statement (.disableWriteW x8) :=
  ⟨frameFWFixed_fixed 0b00 x8, frameFWFixed_operand 0b00 x8⟩

theorem InPattern.disableWriteB (x9 : BitVec 9) : InPattern.Statement (.disableWriteB x9) :=
  ⟨frameFBFixed_fixed 0b00 x9, frameFBFixed_operand 0b00 x9⟩

theorem InPattern.eraseAllW (x8 : BitVec 8) : InPattern.Statement (.eraseAllW x8) :=
  ⟨frameFWFixed_fixed 0b01 x8, frameFWFixed_operand 0b01 x8⟩

theorem InPattern.eraseAllB (x9 : BitVec 9) : InPattern.Statement (.eraseAllB x9) :=
  ⟨frameFBFixed_fixed 0b01 x9, frameFBFixed_operand 0b01 x9⟩

theorem InPattern.writeW (a10 : BitVec 10) : InPattern.Statement (.writeW a10) :=
  ⟨frameFW_fixed 0b01 a10, frameFW_operand 0b01 a10⟩

theorem InPattern.writeB (a11 : BitVec 11) : InPattern.Statement (.writeB a11) :=
  ⟨frameFB_fixed 0b01 a11, frameFB_operand 0b01 a11⟩

theorem InPattern.readW (a10 : BitVec 10) : InPattern.Statement (.readW a10) :=
  ⟨frameFW_fixed 0b10 a10, frameFW_operand 0b10 a10⟩

theorem InPattern.readB (a11 : BitVec 11) : InPattern.Statement (.readB a11) :=
  ⟨frameFB_fixed 0b10 a11, frameFB_operand 0b10 a11⟩

theorem InPattern.eraseOneW (a10 : BitVec 10) : InPattern.Statement (.eraseOneW a10) :=
  ⟨frameFW_fixed 0b11 a10, frameFW_operand 0b11 a10⟩

theorem InPattern.eraseOneB (a11 : BitVec 11) : InPattern.Statement (.eraseOneB a11) :=
  ⟨frameFB_fixed 0b11 a11, frameFB_operand 0b11 a11⟩

end Sys2Proof.Laws
end

