-- ==== Sys2Proof/Laws/Step.lean ====
section
/-! SUPPORT. What an instruction and a step can do, said once: the inversion of `exec` and of `step`. -/

namespace Sys2Proof.Machine

/-- What taking a command can do. -/
theorem issue_cases {op : SeqOp} {l s t : State} (h : issue op l s = .next t) :
    t = s ∨ s.ready = true ∧ t = runOperation (takeCommand op l) := by
  unfold issue at h
  split at h
  · cases h; exact .inr ⟨‹_›, rfl⟩
  · cases h; exact .inl rfl

/-- What a frame row can do. -/
theorem issueFrame_cases {org : Org} {op : SeqOp} {l s t : State} (h : issueFrame org op l s = .next t) :
    t = s ∨ s.ready = true ∧ s.cfg.org = org ∧ t = runOperation (takeCommand op l) := by
  unfold issueFrame at h
  split at h
  · split at h
    · cases h; exact .inr ⟨‹_›, ‹_›, rfl⟩
    · cases h
  · cases h; exact .inl rfl

/-- An instruction that answers a next state changed nothing, was `construct` on a block not yet constructed,
or is an operation taken by a ready block, with the operands it latches. -/
theorem exec_cases {i : Instr} {s t : State} (h : exec i s = .next t) :
    t = s ∨
    (∃ line org, i = .construct line org ∧ s.constructed = false ∧ t = constructed line org s) ∨
    ∃ op a v, s.ready = true ∧ op ≠ .none ∧
      t = runOperation (takeCommand op { s with addr := a, value := v }) := by
  have host : ∀ {op : SeqOp} {a v : Half}, op ≠ .none → issue op { s with addr := a, value := v } s = .next t →
      t = s ∨ (∃ line org, i = .construct line org ∧ s.constructed = false ∧ t = constructed line org s) ∨
        ∃ op a v, s.ready = true ∧ op ≠ .none ∧
          t = runOperation (takeCommand op { s with addr := a, value := v }) := by
    intro op a v hop h
    rcases issue_cases h with h | ⟨hr, h⟩
    · exact .inl h
    · exact .inr (.inr ⟨op, a, v, hr, hop, h⟩)
  have frame : ∀ {org : Org} {op : SeqOp} {a v : Half}, op ≠ .none →
      issueFrame org op { s with addr := a, value := v } s = .next t →
      t = s ∨ (∃ line org, i = .construct line org ∧ s.constructed = false ∧ t = constructed line org s) ∨
        ∃ op a v, s.ready = true ∧ op ≠ .none ∧
          t = runOperation (takeCommand op { s with addr := a, value := v }) := by
    intro org op a v hop h
    rcases issueFrame_cases h with h | ⟨hr, -, h⟩
    · exact .inl h
    · exact .inr (.inr ⟨op, a, v, hr, hop, h⟩)
  cases i with
  | configureBus => exact host (a := s.addr) (v := s.value) (by decide) h
  | enableWrite => exact host (a := s.addr) (v := s.value) (by decide) h
  | disableWrite => exact host (a := s.addr) (v := s.value) (by decide) h
  | eraseAll => exact host (a := s.addr) (v := s.value) (by decide) h
  | writeValue address value => exact host (a := address) (v := value) (by decide) h
  | readValue address => exact host (a := address) (v := s.value) (by decide) h
  | eraseOne address => exact host (a := address) (v := s.value) (by decide) h
  | construct line org =>
    simp only [exec, execConstruct] at h
    split at h
    · cases h; exact .inl rfl
    · rename_i hc
      cases h
      exact .inr (.inl ⟨line, org, rfl, by simpa using hc, rfl⟩)
  | enableWriteW x8 => exact frame (a := s.addr) (v := s.value) (by decide) h
  | enableWriteB x9 => exact frame (a := s.addr) (v := s.value) (by decide) h
  | disableWriteW x8 => exact frame (a := s.addr) (v := s.value) (by decide) h
  | disableWriteB x9 => exact frame (a := s.addr) (v := s.value) (by decide) h
  | eraseAllW x8 => exact frame (a := s.addr) (v := s.value) (by decide) h
  | eraseAllB x9 => exact frame (a := s.addr) (v := s.value) (by decide) h
  | writeW a10 => exact frame (a := a10.setWidth 16) (v := s.value) (by decide) h
  | writeB a11 => exact frame (a := a11.setWidth 16) (v := s.value) (by decide) h
  | readW a10 => exact frame (a := a10.setWidth 16) (v := s.value) (by decide) h
  | readB a11 => exact frame (a := a11.setWidth 16) (v := s.value) (by decide) h
  | eraseOneW a10 => exact frame (a := a10.setWidth 16) (v := s.value) (by decide) h
  | eraseOneB a11 => exact frame (a := a11.setWidth 16) (v := s.value) (by decide) h

/-- A step that answers a next state ran on with the operation in flight, took a move away and did nothing
else, executed what was presented, or let another user act on an idle block. -/
theorem step_cases {s t : State} (h : step s = .next t) :
    s.inFlight = true ∧ t = runOperation s ∨
    (∃ rest, rest <:+ s.inputs ∧ t = { s with inputs := rest }) ∨
    (∃ c rest i, s.inputs = .present c :: rest ∧ decode c = .ok i ∧
      exec i { s with inputs := rest } = .next t) ∨
    ∃ b rest, s.inputs = .busUser b :: rest ∧ s.inFlight = false ∧ t = { s with bus := b, inputs := rest } := by
  unfold step at h
  split at h
  · unfold nothingArrives at h
    split at h
    · cases h; exact .inl ⟨‹_›, rfl⟩
    · cases h; exact .inr (.inl ⟨s.inputs, List.suffix_rfl, rfl⟩)
  · rename_i c rest hi
    unfold presented at h
    split at h
    · rename_i i hd
      exact .inr (.inr (.inl ⟨c, rest, i, hi, hd, h⟩))
    · cases h; exact .inr (.inl ⟨rest, by simp [hi], rfl⟩)
    · cases h
  · rename_i rx rest hi
    unfold completionArrives at h
    split at h
    · cases h; exact .inl ⟨‹_›, rfl⟩
    · cases h; exact .inr (.inl ⟨rest, by simp [hi], rfl⟩)
  · rename_i b rest hi
    unfold busUserActs at h
    split at h
    · cases h
    · rename_i hf
      cases h
      exact .inr (.inr (.inr ⟨b, rest, hi, by simpa [State.inFlight] using hf, rfl⟩))

end Sys2Proof.Machine
end

