-- ==== Sys2Proof/Tests/Slice0.lean ====
section
/-! SUPPORT. Tests: ill-formed instructions are refused, written-out words decode, each instruction does on
one small state what a vector of spec/95_test_vectors.md says, and the hypotheses of every obligation are met
by a concrete state (`witness_…`). -/

namespace Sys2Proof.Tests

open Sys2Proof.Machine

/-! ### WellFormed: one ill-formed term for each check (R87) -/

theorem test_illFormed_enableWriteW : (Instr.enableWriteW 0x80).wellFormed = false := by decide
theorem test_illFormed_enableWriteB : (Instr.enableWriteB 0x100).wellFormed = false := by decide
theorem test_illFormed_disableWriteW : (Instr.disableWriteW 0x80).wellFormed = false := by decide
theorem test_illFormed_disableWriteB : (Instr.disableWriteB 0x100).wellFormed = false := by decide
theorem test_illFormed_eraseAllW : (Instr.eraseAllW 0x80).wellFormed = false := by decide
theorem test_illFormed_eraseAllB : (Instr.eraseAllB 0x100).wellFormed = false := by decide

/-! ### Decode: the words of spec/opcode_table.json and of vectors V1 to V52, bit by bit -/

theorem test_decode_configureBus : decode (.host 0b000 0 0) = .ok (.configureBus) := by rfl
theorem test_decode_enableWrite : decode (.host 0b001 0 0) = .ok (.enableWrite) := by rfl
theorem test_decode_disableWrite : decode (.host 0b010 0 0) = .ok (.disableWrite) := by rfl
theorem test_decode_eraseAll : decode (.host 0b011 0 0) = .ok (.eraseAll) := by rfl
theorem test_decode_writeValue : decode (.host 0b100 0x0003 0xBEEF) = .ok (.writeValue 0x0003 0xBEEF) := by rfl
theorem test_decode_readValue : decode (.host 0b101 0x0003 0) = .ok (.readValue 0x0003) := by rfl
theorem test_decode_eraseOne : decode (.host 0b110 0x0155 0) = .ok (.eraseOne 0x0155) := by rfl
theorem test_decode_construct : decode (.reset ⟨5⟩ 1) = .ok (.construct ⟨5⟩ .byte8) := by rfl
theorem test_decode_enableWriteW : decode (.frame 0b0001001100000000) = .ok (.enableWriteW 0) := by rfl
theorem test_decode_enableWriteB : decode (.frame 0b0010011000000000) = .ok (.enableWriteB 0) := by rfl
theorem test_decode_disableWriteW : decode (.frame 0b0001000000000000) = .ok (.disableWriteW 0) := by rfl
theorem test_decode_disableWriteB : decode (.frame 0b0010000000000000) = .ok (.disableWriteB 0) := by rfl
theorem test_decode_eraseAllW : decode (.frame 0b0001000100000000) = .ok (.eraseAllW 0) := by rfl
theorem test_decode_eraseAllB : decode (.frame 0b0010001000000000) = .ok (.eraseAllB 0) := by rfl
theorem test_decode_writeW : decode (.frame 0b0001011010101010) = .ok (.writeW 0x2AA) := by rfl
theorem test_decode_writeB : decode (.frame 0b0010110000000000) = .ok (.writeB 0x400) := by rfl
theorem test_decode_readW : decode (.frame 0b0001101111111111) = .ok (.readW 0x3FF) := by rfl
theorem test_decode_readB : decode (.frame 0b0011000000000011) = .ok (.readB 0x003) := by rfl
theorem test_decode_eraseOneW : decode (.frame 0b0001110101010101) = .ok (.eraseOneW 0x155) := by rfl
theorem test_decode_eraseOneB : decode (.frame 0b0011110101010101) = .ok (.eraseOneB 0x555) := by rfl
theorem test_decode_dontCare : decode (.frame 0x13FF) = .ok (.enableWriteW 0xFF) := by rfl
theorem test_decode_reservedCommand : decode (.host 7 0 0) = .error .reservedCommand := by rfl
theorem test_decode_unknown_word : decode (.frame 0x1200) = .error .unknownFrame := by rfl
theorem test_decode_unknown_byte : decode (.frame 0x2400) = .error .unknownFrame := by rfl
theorem test_decodeFrame_crossMode : decodeFrame .byte8 0x1403 = .unknown ∧ decodeFrame .word16 0x2803 = .unknown := by
  decide
theorem test_tableWord_writeValue : decodeTableWord 8 4 = some (.writeValue 0 0) := by rfl
theorem test_tableWord_writeB : decodeTableWord 16 0x2800 = some (.writeB 0) := by rfl
theorem test_tableWord_construct : decodeTableWord 0 0 = some (.construct ⟨0⟩ .word16) := by rfl
theorem test_tableWord_reserved : decodeTableWord 8 7 = none := by rfl

/-! ### Meanings: one step each, from the vectors -/

/-- An idle block of organization `org` whose environment shifts in `rx` and then answers no more. -/
def block (org : Org) (rx : List Byte) : State :=
  { State.reset with cfg := { line := ⟨0⟩, org := org }, inputs := rx.map .busComplete, responsive := false }

/-- Where a step goes, for the tests; the state itself where it stops. -/
def after (s : State) : Host.Outcome State Fault Refusal → State
  | .next t => t
  | .fault _ => s
  | .refused _ => s

/-- The transmitted bytes of a run of one instruction, bracket by bracket. -/
def brackets (s : State) (i : Instr) : List (List Byte) :=
  ((after s (exec i s)).trace.drop s.trace.length).foldl
    (fun (acc : List (List Byte)) e => match e with
      | .cs true => acc ++ [[]]
      | .x tx _ => acc.dropLast ++ [(acc.getLastD []) ++ [tx]]
      | .cs false => acc
      | .cfg => acc) []

theorem test_enableWrite_V1 : brackets (block .word16 [0, 0]) .enableWrite = [[0x13, 0x00]] := rfl
theorem test_enableWrite_V4 : brackets (block .byte8 [0, 0]) .enableWrite = [[0x26, 0x00]] := rfl
theorem test_disableWrite_V2 : brackets (block .word16 [0, 0]) .disableWrite = [[0x10, 0x00]] := rfl
theorem test_disableWrite_V5 : brackets (block .byte8 [0, 0]) .disableWrite = [[0x20, 0x00]] := rfl
theorem test_eraseAll_V3 : brackets (block .word16 [0, 0]) .eraseAll = [[0x11, 0x00]] := rfl
theorem test_eraseAll_V6 : brackets (block .byte8 [0, 0]) .eraseAll = [[0x22, 0x00]] := rfl
theorem test_writeValue_V7 : brackets (block .word16 [0, 0, 0, 0, 0, 0, 0, 0]) (.writeValue 0x0003 0xBEEF) = [[0x13, 0x00], [0x14, 0x03, 0xBE, 0xEF], [0x10, 0x00]] := rfl
theorem test_writeValue_V23 : brackets (block .byte8 [0, 0, 0, 0, 0, 0, 0]) (.writeValue 0x0003 0xBEA5) = [[0x26, 0x00], [0x28, 0x03, 0xA5], [0x20, 0x00]] := rfl
theorem test_eraseOne_V9 : brackets (block .word16 [0, 0]) (.eraseOne 0x0155) = [[0x1D, 0x55]] := rfl
theorem test_eraseOne_V21 : brackets (block .byte8 [0, 0]) (.eraseOne 0x07FF) = [[0x3F, 0xFF]] := rfl
theorem test_enableWriteW : brackets (block .word16 [0, 0]) (.enableWriteW 0) = [[0x13, 0x00]] := rfl
theorem test_enableWriteB : brackets (block .byte8 [0, 0]) (.enableWriteB 0) = [[0x26, 0x00]] := rfl
theorem test_disableWriteW : brackets (block .word16 [0, 0]) (.disableWriteW 0) = [[0x10, 0x00]] := rfl
theorem test_disableWriteB : brackets (block .byte8 [0, 0]) (.disableWriteB 0) = [[0x20, 0x00]] := rfl
theorem test_eraseAllW : brackets (block .word16 [0, 0]) (.eraseAllW 0) = [[0x11, 0x00]] := rfl
theorem test_eraseAllB : brackets (block .byte8 [0, 0]) (.eraseAllB 0) = [[0x22, 0x00]] := rfl
theorem test_writeW : brackets (block .word16 [0, 0, 0, 0]) (.writeW 0x2AA) = [[0x16, 0xAA, 0x00, 0x00]] := rfl
theorem test_writeB : brackets (block .byte8 [0, 0, 0]) (.writeB 0x2AA) = [[0x2A, 0xAA, 0x00]] := rfl
theorem test_eraseOneW : brackets (block .word16 [0, 0]) (.eraseOneW 0x3FF) = [[0x1F, 0xFF]] := rfl
theorem test_eraseOneB : brackets (block .byte8 [0, 0]) (.eraseOneB 0x555) = [[0x3D, 0x55]] := rfl

theorem test_configureBus : (after (block .word16 []) (exec .configureBus (block .word16 []))).trace = [.cs false, .cfg] ∧
    (after (block .word16 []) (exec .configureBus (block .word16 []))).bus.mstr = true := by decide

theorem test_readValue_V8 :
    (after (block .word16 []) (exec (.readValue 0x0003) (block .word16 [1, 2, 0xBE, 0xEF]))).result = 0xBEEF := by
  decide
theorem test_readValue_V17 :
    (after (block .byte8 []) (exec (.readValue 0x0003) (block .byte8 [1, 2, 0x5A, 0xA5]))).result = 0x00A5 := by
  decide
theorem test_readW_V12 :
    (after (block .word16 []) (exec (.readW 0x3FF) (block .word16 [1, 2, 0x00, 0x01]))).result = 0x0001 := by
  decide
theorem test_readB_V20 :
    (after (block .byte8 []) (exec (.readB 0x7FF) (block .byte8 [1, 2, 0x12, 0x34]))).result = 0x0034 := by
  decide

/-- A block before `construct`. -/
def unconstructed : State := { State.reset with constructed := false }

theorem test_construct :
    (after unconstructed (exec (.construct ⟨7⟩ .byte8) unconstructed)).cfg = { line := ⟨7⟩, org := .byte8 } ∧
    (after unconstructed (exec (.construct ⟨7⟩ .byte8) unconstructed)).trace = [.cs false] := ⟨rfl, rfl⟩

/-- V65: the first exchange of `enableWrite` completes, the second never does. -/
def hung : State := after (block .word16 []) (exec .enableWrite (block .word16 [0xFF]))

theorem test_hang_V65 : hung.seq = { op := .enableWrite, step := 2, sub := .wait, phase := .xfer } ∧
    hung.cs = .asserted ∧ hung.trace = [.cs false, .cs true, .cfg, .x 0x13 0xFF, .cfg] ∧ hung.ended = 0 := by
  decide

theorem test_memory_atReset : State.reset.dev.mem.wf = true := by decide

theorem test_memory_write_restores_background : Memory.write (Memory.write [] 5 0x12) 5 Config.background = [] := by
  decide

theorem test_placed_host : step (State.reset.withFetchWord 8 4) = exec (.writeValue 0 0) State.reset := by rfl
theorem test_placed_frame : step (State.reset.withFetchWord 16 0x1C00) = exec (.eraseOneW 0) State.reset := by rfl
theorem test_placed_reset : step (State.reset.withFetchWord 0 0) = exec (.construct ⟨0⟩ .word16) unconstructed := by rfl

/-! ### Witnesses: the hypotheses of the obligations are met -/

/-- A block with an attached device of its organization, at the start of a test (R66), with the
write-enable latch as given; the environment answers. -/
def served (org : Org) (wel : Bool) : State :=
  { State.reset with
    cfg := { line := ⟨0⟩, org := org }
    dev := { RefDev.atReset with attached := true, org := org, wel := wel } }

theorem witness_DecodeEncode : (Instr.eraseOneB 0x7FF).wellFormed = true ∧ (Instr.enableWriteW 0).wellFormed = true := by
  decide

/-- The boundaries of the valid addresses (R51): for `SentFramesDecode` and `AddressedFramesAreDisjoint`. -/
theorem witness_validAddress :
    validAddress .word16 0 = true ∧ validAddress .word16 0x3FF = true ∧ validAddress .word16 0x400 = false ∧
    validAddress .byte8 0x7FF = true ∧ validAddress .byte8 0x800 = false := by decide

/-- One frame for each clause of the opcode map. -/
theorem witness_OpcodeMap :
    (0x17FF : Half).extractLsb' 10 6 = 0b000101 ∧ (0x1BFF : Half).extractLsb' 10 6 = 0b000110 ∧
    (0x1FFF : Half).extractLsb' 10 6 = 0b000111 ∧ (0x13FF : Half).extractLsb' 10 6 = 0b000100 ∧
    (0x13FF : Half).extractLsb' 8 2 = 0b11 ∧ (0x10FF : Half).extractLsb' 8 2 = 0b00 ∧
    (0x11FF : Half).extractLsb' 8 2 = 0b01 ∧ (0x2FFF : Half).extractLsb' 11 5 = 0b00101 ∧
    (0x37FF : Half).extractLsb' 11 5 = 0b00110 ∧ (0x3FFF : Half).extractLsb' 11 5 = 0b00111 ∧
    (0x27FF : Half).extractLsb' 11 5 = 0b00100 ∧ (0x27FF : Half).extractLsb' 9 2 = 0b11 ∧
    (0x21FF : Half).extractLsb' 9 2 = 0b00 ∧ (0x23FF : Half).extractLsb' 9 2 = 0b01 ∧
    addressed .eraseAll = false := by decide

theorem witness_AddressedFramesAreDisjoint :
    addressed .write = true ∧ addressed .eraseAll = false ∧ validAddress .word16 0x3FF = true ∧
    frameOf .write .word16 0x3FF = frameOf .write .word16 0x3FF := by decide

/-- Addresses on both sides of every clause of the table of R98. -/
theorem witness_OutOfRangeAddressesAlias :
    (0x1FFF : Half) &&& 0xE000 = 0 ∧ (0x2000 : Half) &&& 0xE000 ≠ 0 ∧ (0x3FFF : Half) &&& 0xC000 = 0 ∧
    (0x4000 : Half) &&& 0xC000 ≠ 0 ∧ addressed .read = true := by decide

theorem witness_ReservedCommandRefused :
    ({ State.reset with inputs := [.present (.host 7 0 0)] } : State).inputs = .present (.host 7 0 0) :: [] ∧
    (6 : BitVec 3) ≠ 7 := by decide

theorem witness_StepRunsTheDecodedInstruction :
    ({ State.reset with inputs := [.present (.frame 0x1803)] } : State).inputs = .present (.frame 0x1803) :: [] ∧
    decode (.frame 0x1803) = .ok (.readW 3) := ⟨rfl, rfl⟩

theorem witness_PlacedWordRuns : decodeTableWord 16 0x3FFF = some (.eraseOneB 0x7FF) := by rfl

/-- For `ConfigureBusResult`, `FixedFrameOperations`, `WriteValueResult`, `ReadValueResult` and `EraseOneResult`:
a ready block whose environment answers, by itself or from its script. -/
theorem witness_operations :
    State.reset.ready = true ∧ State.reset.answersNext 8 = true ∧ (block .byte8 [0, 0, 0, 0, 0, 0, 0]).ready = true ∧
    (block .byte8 [0, 0, 0, 0, 0, 0, 0]).answersNext 7 = true ∧ (block .word16 [0, 0]).answersNext 2 = true := by
  decide

/-- For `FixedFrameRows` and `AddressedFrameRows`. -/
theorem witness_frameRows : (block .word16 [0, 0, 0, 0]).ready = true ∧ (block .word16 [0, 0, 0, 0]).cfg.org = .word16 ∧
    (block .word16 [0, 0, 0, 0]).answersNext 4 = true ∧ (block .byte8 [0, 0, 0]).cfg.org = .byte8 ∧
    (block .byte8 [0, 0, 0]).answersNext 3 = true := by decide

theorem witness_FrameRowsElsewhere :
    rowCommand (.writeB 0x7FF) = some (.byte8, .write 0x7FF) ∧ (block .word16 []).ready = true ∧
    (block .word16 []).cfg.org ≠ .byte8 ∧ hung.ready = false := by decide

theorem witness_ReadReturnsWhatTheBusReceived :
    (block .word16 [1, 2, 3, 4]).ready = true ∧ (block .word16 [1, 2, 3, 4]).dev.attached = false ∧
    (block .word16 [1, 2, 3, 4]).inputs = .busComplete 1 :: .busComplete 2 :: .busComplete 3 :: .busComplete 4 :: [] := by
  decide

/-- For `ConstructResult`. -/
theorem witness_construct : unconstructed.constructed = false ∧ unconstructed.dev.sel = false := by decide

theorem witness_SecondConstructRefused :
    ({ State.reset with inputs := [.present (.reset ⟨3⟩ (strapOfOrg .byte8))] } : State).constructed = true := by decide

/-- The three cases of R166. -/
theorem witness_RefusedCommandsChangeNothing :
    ({ unconstructed with inputs := [.present (.host 1 0 0)] } : State).constructed = false ∧
    ({ hung with inputs := [.present (.host 5 3 0)] } : State).seq.op ≠ .none ∧
    ({ State.reset with inputs := [.present (.host 7 0 0)] } : State).inputs = .present (.host 7 0 0) :: [] := by
  decide

theorem witness_EventsPerOperation :
    State.reset.ready = true ∧ Instr.writeValue 1 2 ∈ hostCommands 1 2 ∧
    State.reset.answersNext (exchangesOf State.reset.cfg.org (.writeValue 1 2)) = true := by decide

theorem witness_OnlyReadsWriteTheResult : exec .configureBus hung = .next hung := by rfl

/-- A transfer from its first sub-step, answered and not; with two answers also for `SendFrame16`. -/
theorem witness_TransferByteResult :
    (block .word16 [7]).seq.sub = .cfg ∧ (block .word16 [7]).answersNext 1 = true ∧
    (block .word16 []).answersNext 1 = false ∧ (block .word16 [7, 8]).answersNext 2 = true := by decide

theorem witness_BracketShape : SeqOp.writeValue ≠ .none ∧ SeqOp.writeValue ≠ .configBus := by decide

theorem witness_CompositeStepIsTheSequencer : hung.inFlight = true := by decide

/-- V65 with an environment that has become responsive. -/
theorem witness_ResponsiveOperationsEnd :
    State.reset.responsive = true ∧ State.reset.ready = true ∧
    ({ hung with responsive := true } : State).inFlight = true ∧ hung.inputs = [] := by decide

theorem witness_UnansweredOperationsHang :
    (block .word16 [0xFF]).ready = true ∧ Instr.enableWrite ∈ hostCommands 0 0 ∧
    (block .word16 [0xFF]).answersNext (exchangesOf (block .word16 [0xFF]).cfg.org .enableWrite) = false := by decide

theorem hung_waits : hung.waitForm :=
  ⟨rfl, rfl, rfl, rfl, ⟨rfl, rfl, rfl, rfl, rfl, rfl⟩, .tx .frameLo, rfl, rfl⟩

theorem witness_HangIsForever : hung.inFlight = true ∧ hung.waitForm ∧ hung.responsive = false ∧
    ∀ x ∈ ({ hung with inputs := [.present (.host 5 3 0), .present (.reset ⟨1⟩ 0)] } : State).inputs,
      (∃ op addr value, x = .present (.host op addr value)) ∨ ∃ line org, x = .present (.reset line org) := by
  refine ⟨rfl, hung_waits, rfl, ?_⟩
  intro x hx
  simp only [List.mem_cons, List.not_mem_nil, or_false] at hx
  rcases hx with rfl | rfl
  · exact .inl ⟨5, 3, 0, rfl⟩
  · exact .inr ⟨⟨1⟩, 0, rfl⟩

/-- V65 with its last completion next, and with a refused command and a reset event before it. -/
theorem witness_OperationsInFlightEnd :
    ({ hung with inputs := [.busComplete 0xFF] } : State).inFlight = true ∧ hung.exchangesLeft = 1 ∧
    ({ hung with inputs := [.busComplete 0xFF] } : State).answersNext hung.exchangesLeft = true ∧
    ({ hung with responsive := true } : State).answersNext hung.exchangesLeft = true ∧
    completes hung.exchangesLeft [.busComplete 0xFF] hung.responsive = true ∧
    (Input.present (.host 5 3 0)).fromHost ∧ (Input.present (.reset ⟨1⟩ 0)).fromHost :=
  ⟨rfl, rfl, rfl, rfl, rfl, trivial, trivial⟩

/-- The completion that is next lets the waiting operation run to its end. -/
theorem test_hang_answered :
    (after hung (step { hung with inputs := [.busComplete 0xFF] })).trace =
      hung.trace ++ [.x 0x00 0xFF, .cs false] := rfl

/-- A row and a frame it accepts; and a frame that no row accepts (V40). -/
theorem witness_FrameRowsExcludeEachOther :
    ⟨.byte8, .eraseOne, 0x3800, 0xF800⟩ ∈ frameRows ∧ (0x3FFF : Half) &&& 0xF800 = 0x3800 := by decide

theorem witness_UnmatchedFrameRefused : ∀ r ∈ frameRows, ¬ r.accepts 0x1200 := by
  unfold FrameRow.accepts
  decide

theorem test_unmatchedFrame :
    step { State.reset with inputs := [.present (.frame 0x1200)] } = .refused .reservedFrame := rfl

theorem witness_IdleCompletionDropped :
    ({ State.reset with inputs := [.busComplete 7] } : State).inFlight = false := by decide

theorem witness_BusContentsDoNotMatter : ∃ t, exec (.eraseOne 3) State.reset = .next t := ⟨_, rfl⟩

theorem witness_OtherBusUsers :
    ({ State.reset with inputs := [.busUser BusController.atReset] } : State).inFlight = false ∧
    ({ unconstructed with inputs := [.busUser BusController.atReset] } : State).inFlight = false ∧
    ({ hung with inputs := [.busUser BusController.atReset] } : State).inFlight = true := by decide

/-- A device in the data phase of a read, and one at the end of each kind of transaction. -/
def receiving (org : Org) (tb : List Byte) : RefDev :=
  { RefDev.atReset with attached := true, org := org, sel := true, wel := true, tb := tb }

theorem witness_DeviceFraming : (receiving .word16 []).attached = true ∧ RefDev.atReset.sel = false := by decide

theorem witness_DeviceAnswers :
    (receiving .word16 [0x18]).tb.length < 2 ∧
    (receiving .word16 [0x18, 0x03]).tb = 0x18 :: 0x03 :: [] ∧
    (receiving .word16 [0x18, 0x03, 0]).tb = 0x18 :: 0x03 :: [0] ∧
    decodeFrame .word16 (joinBytes 0x18 0x03) = .read 3 ∧
    decodeFrame .byte8 (joinBytes 0x37 0xFF) = .read 0x7FF ∧
    decodeFrame .word16 (joinBytes 0x13 0x00) = .enable := by decide

theorem witness_DeviceCommits :
    (receiving .word16 []).attached = true ∧ (receiving .word16 []).sel = true ∧ (receiving .word16 []).mem.wf = true ∧
    (receiving .word16 []).wel = true ∧
    (receiving .word16 [0x17, 0xFF, 0xBE, 0xEF]).tb = 0x17 :: 0xFF :: [0xBE, 0xEF] ∧
    decodeFrame .word16 (joinBytes 0x17 0xFF) = .write 0x3FF ∧ [(0xBE : Byte)].length < (valueBytes .word16 0).length ∧
    decodeFrame .byte8 (joinBytes 0x2F 0xFF) = .write 0x7FF ∧ decodeFrame .word16 (joinBytes 0x11 0) = .eraseAll ∧
    decodeFrame .word16 (joinBytes 0x1C 0) = .eraseOne 0 := by decide

theorem witness_DeviceFollowsTheTrace :
    State.reset.constructed = true ∧ step State.reset = .next State.reset := ⟨rfl, rfl⟩

theorem served_served (org : Org) (wel : Bool) : (served org wel).served := ⟨rfl, rfl⟩

/-- For `LatchFollowsTheBrackets`, `ReadReturnsTheUnit`, `ErasesUnderTheLatch`, `ProtectedArrayIsKept`, `RoundTrip`
and `WriteClosesTheBracket`: a ready block with an attached device, in both organizations, the latch set and
clear. -/
theorem witness_device :
    (served .word16 true).ready = true ∧ (served .byte8 false).ready = true ∧ (served .word16 true).dev.wel = true ∧
    (served .byte8 false).dev.wel = false ∧ (served .word16 true).dev.mem.wf = true ∧
    (served .byte8 false).answersNext 20 = true ∧ (served .word16 true).answersNext 20 = true ∧
    (served .byte8 false).dev.sel = false ∧ validAddress .byte8 0x7FF = true ∧ unitValue .byte8 0xA5 = 0xA5 ∧
    unitValue .word16 0xBEEF = 0xBEEF := by decide

/-- P6: the address of an out-of-range read that is an erase. -/
theorem witness_OutOfRangeReadErases : (0x0403 : Half) &&& 0xE000 = 0 ∧ (0x0403 : Half).getLsbD 10 = true ∧
    (served .word16 true).cfg.org = .word16 := by decide

theorem hung_inv : hung.inv := fun _ => ⟨fun h => absurd h (by decide), fun _ => ⟨hung_waits, by decide⟩⟩

/-- The invariant holds of a waiting state too, and a step leads on from it. -/
theorem witness_InvariantKept : hung.inv ∧ ∃ t, step hung = .next t := ⟨hung_inv, _, rfl⟩

theorem witness_ArrayStaysCanonical :
    (served .word16 true).arrayCanonical ∧ step (served .word16 true) = .next (served .word16 true) := ⟨rfl, rfl⟩

/-- Moves of the others after `construct`: another bus user, an answered `enableWrite`, a read without its last
answer. -/
def session : State :=
  { unconstructed with responsive := false, inputs := [.busUser BusController.atReset, .present (.host 1 0 0),
      .busComplete 0xFF, .busComplete 0xFF, .present (.host 5 3 0),
      .busComplete 0xFF, .busComplete 0xFF, .busComplete 0xBE] }

/-- After two steps of the session the block is idle behind a closed bracket; after three it waits in an open one. -/
theorem witness_ReachableStates :
    (∃ t, Host.Core.run Sys2Proof.core 2 (constructed ⟨7⟩ .word16 session) = .next t ∧ t.seq.op = .none ∧
      t.trace = [.cs false, .cs true, .cfg, .x 0x13 0xFF, .cfg, .x 0x00 0xFF, .cs false]) ∧
    ∃ t, Host.Core.run Sys2Proof.core 3 (constructed ⟨7⟩ .word16 session) = .next t ∧ t.seq.phase = .xfer ∧
      readTrace t.trace = .inside 3 true :=
  ⟨⟨_, rfl, rfl, rfl⟩, _, rfl, rfl, rfl⟩

theorem witness_HandleNeverChanges : unconstructed.constructed = false ∧ State.reset.constructed = true := by decide

end Sys2Proof.Tests
end

/-! ## The state: what every step keeps, the byte transfer in sub-steps, and the other agents

Proofs about spec/10_state.md. The order: positions in a step list, brackets, the invariant of R43 and what follows
from it, the receive latches, the sub-step sequencer, the lines, the moves of the other agents. -/

namespace Sys2Proof.Machine

/-! ### The position in a step list -/

/-- The completed steps of the operation in flight (R29); `stepsLeft` are the others. -/
def State.stepsDone (s : State) : List SeqStep := (stepList s.seq.op s.cfg.org).take s.seq.step

/-- The two states are those of a constructed block, or neither is, at the same step of the same step list. -/
structure SamePosition (s t : State) : Prop where
  constructed : t.constructed = s.constructed
  cfg : t.cfg = s.cfg
  op : t.seq.op = s.seq.op
  step : t.seq.step = s.seq.step

theorem runOperation_eq_runSteps (s : State) : runOperation s = runSteps s.stepsLeft s := rfl

/-- The step that the sequencer stands at, the steps after it, and the completed steps once it is done. -/
theorem stepsLeft_cons {s : State} {st : SeqStep} {rest : List SeqStep} (h : s.stepsLeft = st :: rest) :
    (stepList s.seq.op s.cfg.org)[s.seq.step]? = some st ∧
    (stepList s.seq.op s.cfg.org).drop (s.seq.step + 1) = rest ∧
    (stepList s.seq.op s.cfg.org).take (s.seq.step + 1) = s.stepsDone ++ [st] := by
  have hget : (stepList s.seq.op s.cfg.org)[s.seq.step]? = some st := by
    simpa [State.stepsLeft] using congrArg List.head? h
  refine ⟨hget, by simpa [State.stepsLeft] using congrArg List.tail h, ?_⟩
  rw [List.take_add_one, hget]
  rfl

/-- Completing the step that the sequencer stands at. -/
theorem SamePosition.nextStep {s t : State} (hp : SamePosition s t) {st : SeqStep} {rest : List SeqStep}
    (h : s.stepsLeft = st :: rest) :
    (nextStep t).stepsLeft = rest ∧ (nextStep t).stepsDone = s.stepsDone ++ [st] := by
  obtain ⟨-, hdrop, htake⟩ := stepsLeft_cons h
  rw [← htake]
  simp [State.stepsLeft, State.stepsDone, hp.cfg, hp.op, hp.step, hdrop]

theorem SamePosition.inFlight {s t : State} (hp : SamePosition s t) (hf : s.inFlight = true) :
    t.inFlight = true := by
  simpa [State.inFlight, hp.constructed, hp.op] using hf

/-- A block with steps left is at an operation. -/
theorem op_ne_none_of_getElem? {s : State} {st : SeqStep}
    (h : (stepList s.seq.op s.cfg.org)[s.seq.step]? = some st) : s.seq.op ≠ .none := by
  intro hop
  simp [hop, stepList] at h

/-- What a step sends is read from `FRAME` and `VALUE` alone (R115, R120). -/
theorem sends_congr (st : SeqStep) {s t : State} (hf : t.frame = s.frame) (hv : t.value = s.value) :
    st.sends t = st.sends s := by
  cases st with
  | tx e => cases e <;> simp [SeqStep.sends, txByte, hf, hv]
  | _ => rfl

@[simp] theorem keep_constructed (st : SeqStep) (s : State) : (st.keep s).constructed = s.constructed := by
  rcases st with _ | _ | _ | (_ | _) | _ | _ <;> rfl
@[simp] theorem keep_cfg (st : SeqStep) (s : State) : (st.keep s).cfg = s.cfg := by
  rcases st with _ | _ | _ | (_ | _) | _ | _ <;> rfl
@[simp] theorem keep_cs (st : SeqStep) (s : State) : (st.keep s).cs = s.cs := by
  rcases st with _ | _ | _ | (_ | _) | _ | _ <;> rfl
@[simp] theorem keep_seq (st : SeqStep) (s : State) : (st.keep s).seq = s.seq := by
  rcases st with _ | _ | _ | (_ | _) | _ | _ <;> rfl
@[simp] theorem keep_trace (st : SeqStep) (s : State) : (st.keep s).trace = s.trace := by
  rcases st with _ | _ | _ | (_ | _) | _ | _ <;> rfl

/-- The action of a step moves nothing in the sequencer. -/
theorem samePosition_act (st : SeqStep) (s : State) : SamePosition s (st.act s) := by
  cases st <;> exact ⟨rfl, rfl, rfl, rfl⟩

/-! ### Sub-steps `WAIT` and `TAKE` -/

/-- The three ways an exchange that stands in `WAIT` goes on (R114, R164). -/
theorem xferFinish_cases (tx : Byte) (s : State) :
    s.bus.done = true ∧ xferFinish tx s = .completed (xferTake tx s) ∨
    (s.bus.done = false ∧ ∃ t, environmentAnswer s = some t ∧ xferFinish tx s = .completed (xferTake tx t)) ∨
    s.bus.done = false ∧ environmentAnswer s = none ∧ xferFinish tx s = .waiting s := by
  unfold xferFinish
  cases hd : s.bus.done with
  | true => exact .inl ⟨rfl, rfl⟩
  | false =>
    cases ha : environmentAnswer s with
    | some t => exact .inr (.inl ⟨rfl, t, rfl, rfl⟩)
    | none => exact .inr (.inr ⟨rfl, rfl, rfl⟩)

/-- A transfer step goes alike from two states that send the same byte and from which its transfer goes alike. -/
theorem runSteps_congr {st : SeqStep} (rest : List SeqStep) {s t : State} {tx : Byte} (hs : st.sends s = some tx)
    (ht : st.sends t = some tx) (h : transferByte tx s = transferByte tx t) :
    runSteps (st :: rest) s = runSteps (st :: rest) t := by
  simp only [runSteps, performStep_transfer hs, performStep_transfer ht, h]

/-- The sub-steps `CFG` and `LOAD` of a transfer (R114). -/
theorem transferByte_cfg {s : State} (h : s.seq.sub = .cfg) (tx : Byte) :
    transferByte tx s = transferByte tx (xferConfigure s) := by simp [transferByte, h]

theorem transferByte_load {s : State} (h : s.seq.sub = .load) (tx : Byte) :
    transferByte tx s = transferByte tx (xferLoad tx s) := by simp [transferByte, h]

theorem transferByte_wait {s : State} (h : s.seq.sub = .wait) (tx : Byte) :
    transferByte tx s = xferFinish tx s := by simp [transferByte, h]

theorem transferByte_take {s : State} (h : s.seq.sub = .take) (tx : Byte) :
    transferByte tx s = .completed (xferTake tx s) := by simp [transferByte, h]

/-! ### Brackets -/

/-- Where a step leads from `p`: `none` is outside every bracket, `some n` is inside one with `n` exchanges so
far. -/
def SeqStep.bracketAfter (p : Option Nat) : SeqStep → Option Nat
  | .csa _ => some 0
  | .tx _ => p.map (· + 1)
  | .rx _ => p.map (· + 1)
  | .csd => none
  | .cfgb => p
  | .res => p

/-- The bracket that a list of completed steps has left open, with its number of exchanges. -/
def openBracket (l : List SeqStep) : Option Nat := l.foldl SeqStep.bracketAfter none

/-- The step may come at `p`: exchanges inside a bracket, everything else outside, and a bracket closes after two
to four exchanges (R118). -/
def SeqStep.fits (p : Option Nat) : SeqStep → Bool
  | .csa _ => p = none
  | .tx _ => p.isSome
  | .rx _ => p.isSome
  | .csd => p ∈ [some 2, some 3, some 4]
  | .cfgb => p = none
  | .res => p = none

@[simp] theorem openBracket_append (l : List SeqStep) (st : SeqStep) :
    openBracket (l ++ [st]) = st.bracketAfter (openBracket l) := by
  simp [openBracket]

/-- The open bracket has the exchanges that the invariant counts. -/
theorem exchangesIn_of_openBracket {l : List SeqStep} {n : Nat} (h : openBracket l = some n) :
    exchangesIn l = n := by
  induction l using List.reverseRecOn generalizing n with
  | nil => simp [openBracket] at h
  | append_singleton l st ih =>
    rw [openBracket_append] at h
    cases st with
    | csa kind => simpa [SeqStep.bracketAfter, exchangesIn] using h
    | tx e =>
      obtain ⟨m, hm, rfl⟩ := Option.map_eq_some_iff.1 h
      simp [← ih hm, exchangesIn]
    | rx d =>
      obtain ⟨m, hm, rfl⟩ := Option.map_eq_some_iff.1 h
      simp [← ih hm, exchangesIn]
    | csd => cases h
    | cfgb => simp [← ih h, exchangesIn]
    | res => simp [← ih h, exchangesIn]

/-- Every step of every step list comes where it may (R118, R120). -/
theorem stepList_fits (op : SeqOp) (org : Org) :
    ∀ k (hk : k < (stepList op org).length), ((stepList op org)[k]).fits (openBracket ((stepList op org).take k)) := by
  cases op <;> cases org <;> decide

/-- No step list leaves a bracket open (R118, R121). -/
theorem openBracket_stepList (op : SeqOp) (org : Org) : openBracket (stepList op org) = none := by
  cases op <;> cases org <;> rfl

/-- No step list makes more than four exchanges in a bracket (R118). -/
theorem exchangesIn_le (op : SeqOp) (org : Org) (k : Nat) : exchangesIn ((stepList op org).take k) ≤ 4 := by
  have key : ∀ l ∈ (stepList op org).inits, exchangesIn l ≤ 4 := by cases op <;> cases org <;> decide
  exact key _ ((List.mem_inits _ _).2 ⟨_, List.take_append_drop k _⟩)

/-- The step that the sequencer stands at comes where it may. -/
theorem fits_of_getElem? {s : State} {st : SeqStep} (h : (stepList s.seq.op s.cfg.org)[s.seq.step]? = some st) :
    st.fits (openBracket s.stepsDone) = true := by
  obtain ⟨hk, rfl⟩ := List.getElem?_eq_some_iff.1 h
  exact stepList_fits _ _ _ hk

/-- Exchanges are made inside a bracket (R118). -/
theorem openBracket_of_sends {s : State} {st : SeqStep} {tx : Byte}
    (h : (stepList s.seq.op s.cfg.org)[s.seq.step]? = some st) (hst : st.sends s = some tx) :
    ∃ n, openBracket s.stepsDone = some n ∧ st.bracketAfter (some n) = some (n + 1) := by
  have hfit := fits_of_getElem? h
  cases st with
  | tx e => exact (Option.isSome_iff_exists.1 hfit).imp fun n hn => ⟨hn, rfl⟩
  | rx d => exact (Option.isSome_iff_exists.1 hfit).imp fun n hn => ⟨hn, rfl⟩
  | csa kind => cases hst
  | csd => cases hst
  | cfgb => cases hst
  | res => cases hst

/-! ### Reading a trace -/

@[simp] theorem readTrace_append (es : List Event) (e : Event) :
    readTrace (es ++ [e]) = (readTrace es).next e := by
  simp [readTrace]

/-- What has gone wrong stays so. -/
theorem foldl_next_broken (es : List Event) : es.foldl TraceReader.next .broken = .broken := by
  induction es with
  | nil => rfl
  | cons e es ih => exact ih

/-- The beginning of a trace in order is in order. -/
theorem readTrace_ne_broken_of_append {es fs : List Event} (h : readTrace (es ++ fs) ≠ .broken) :
    readTrace es ≠ .broken := by
  intro hb
  refine h ?_
  rw [readTrace, List.foldl_append, ← readTrace, hb, foldl_next_broken]

/-- A bracket closes after two to four exchanges. -/
theorem next_close (n : Nat) (j : Bool) :
    (TraceReader.inside n j).next (.cs false) = if 2 ≤ n ∧ n ≤ 4 then .outside false else .broken := by
  cases j <;> rfl

/-- Only a `Cfg` sets `justCfg` inside a bracket. -/
theorem eq_cfg_of_next {r : TraceReader} {e : Event} {n : Nat} (h : r.next e = .inside n true) : e = .cfg := by
  cases e with
  | cfg => rfl
  | x tx rx => rcases r with _ | _ | ⟨m, _ | _⟩ | _ <;> cases h
  | cs l =>
    cases l with
    | true => rcases r with _ | _ | ⟨m, _ | _⟩ | _ <;> cases h
    | false =>
      rcases r with _ | _ | ⟨m, j⟩ | _
      case inside => rw [next_close] at h; split at h <;> cases h
      all_goals cases h

/-- The reader says `justCfg` inside a bracket only after a `Cfg`. -/
theorem getLast_cfg_of_readTrace {es : List Event} {n : Nat} (h : readTrace es = .inside n true) :
    ∃ es', es = es' ++ [.cfg] := by
  rcases List.eq_nil_or_concat' es with rfl | ⟨es', e, rfl⟩
  · cases h
  · rw [readTrace_append] at h
    exact ⟨es', by rw [eq_cfg_of_next h]⟩

/-- In a trace in order every `X` comes right after a `Cfg` (R43(e)). -/
theorem cfg_before_x {pre post : List Event} {tx rx : Byte}
    (h : readTrace (pre ++ .x tx rx :: post) ≠ .broken) : ∃ pre', pre = pre' ++ [.cfg] := by
  have hx : readTrace (pre ++ [.x tx rx]) ≠ .broken :=
    readTrace_ne_broken_of_append (fs := post) (by simpa using h)
  rw [readTrace_append] at hx
  cases hp : readTrace pre with
  | inside n j =>
    cases j with
    | true => exact getLast_cfg_of_readTrace hp
    | false => exact absurd (by rw [hp]; rfl) hx
  | start => exact absurd (by rw [hp]; rfl) hx
  | outside j => exact absurd (by rw [hp]; rfl) hx
  | broken => exact absurd (by rw [hp]; rfl) hx

/-! ### The invariant through a run -/

/-- Chip-select and the trace are those of a block at `p`: outside every bracket, or inside one. -/
def State.standsAt (s : State) : Option Nat → Prop
  | none => s.cs = .deasserted ∧ ∃ j, readTrace s.trace = .outside j
  | some n => s.cs = .asserted ∧ ∃ j, readTrace s.trace = .inside n j

/-- An operation in flight between two steps of its step list: what the invariant becomes in the course of a run. -/
structure State.betweenSteps (s : State) : Prop where
  constructed : s.constructed = true
  sub : s.seq.sub = .cfg
  phase : s.seq.phase = .idle
  stands : s.standsAt (openBracket s.stepsDone)

/-- An operation in flight that waits for an exchange, with the exchanges of its bracket: the invariant of a
waiting block. -/
structure State.waitsAfter (s : State) (n : Nat) : Prop where
  constructed : s.constructed = true
  form : s.waitForm
  bracket : openBracket s.stepsDone = some n
  trace : readTrace s.trace = .inside n true

theorem State.waitsAfter.inv {s : State} {n : Nat} (h : s.waitsAfter n) : s.inv := by
  obtain ⟨-, -, -, -, -, st, hst, -⟩ := h.form
  exact fun _ => ⟨fun hop => absurd hop (op_ne_none_of_getElem? hst),
    fun _ => ⟨h.form, by rw [h.trace, ← exchangesIn_of_openBracket h.bracket]; rfl⟩⟩

theorem State.inv.waitsAfter {s : State} (h : s.inv) (hf : s.inFlight = true) : ∃ n, s.waitsAfter n := by
  obtain ⟨hc, hop⟩ := inFlight_iff.1 hf
  obtain ⟨hw, ht⟩ := (h hc).2 hop
  have ⟨_, _, _, _, _, st, hst, hsends⟩ := hw
  obtain ⟨n, hn, -⟩ := openBracket_of_sends hst hsends
  exact ⟨n, hc, hw, hn, by rw [ht, ← exchangesIn_of_openBracket hn]; rfl⟩

/-- The end of the step list is idle in form (R43(b), R121). -/
theorem State.betweenSteps.inv_endOperation {s : State} (h : s.betweenSteps) (hl : s.stepsLeft = []) :
    (endOperation s).inv := by
  have hdone : openBracket s.stepsDone = none := by
    rw [State.stepsDone, List.take_of_length_le (List.drop_eq_nil_iff.1 hl), openBracket_stepList]
  obtain ⟨hcs, ht⟩ : s.standsAt none := hdone ▸ h.stands
  exact fun _ => ⟨fun _ => ⟨⟨by simp [Sequencer.atRest, h.phase], hcs⟩, ht⟩, fun hop => absurd rfl hop⟩

/-- A step that transfers nothing leads to its place among the brackets (R110 to R112, R142). -/
theorem State.betweenSteps.act {s : State} (h : s.betweenSteps) {st : SeqStep} {rest : List SeqStep}
    (hl : s.stepsLeft = st :: rest) (hst : st.sends s = none) : (nextStep (st.act s)).betweenSteps := by
  have hsame := samePosition_act st s
  obtain ⟨-, hdone⟩ := hsame.nextStep hl
  have hfit := fits_of_getElem? (stepsLeft_cons hl).1
  have hs := h.stands
  suffices hstands : (nextStep (st.act s)).standsAt (st.bracketAfter (openBracket s.stepsDone)) by
    refine ⟨hsame.constructed.trans h.constructed, rfl, ?_, by rwa [hdone, openBracket_append]⟩
    cases st <;> exact h.phase
  cases st with
  | csa kind =>
    rw [of_decide_eq_true hfit] at hs
    obtain ⟨-, j, hj⟩ := hs
    exact ⟨rfl, false, by simp [SeqStep.act, hj, TraceReader.next]⟩
  | csd =>
    have hmem : openBracket s.stepsDone ∈ [some 2, some 3, some 4] := of_decide_eq_true hfit
    obtain ⟨n, hn, hle⟩ : ∃ n, openBracket s.stepsDone = some n ∧ 2 ≤ n ∧ n ≤ 4 := by
      simp only [List.mem_cons, List.not_mem_nil, or_false] at hmem
      rcases hmem with hn | hn | hn <;> exact ⟨_, hn, by decide⟩
    rw [hn] at hs
    obtain ⟨-, j, hj⟩ := hs
    exact ⟨rfl, false, by simp [SeqStep.act, hj, next_close, hle]⟩
  | cfgb =>
    rw [of_decide_eq_true hfit] at hs ⊢
    obtain ⟨hcs, j, hj⟩ := hs
    exact ⟨hcs, true, by simp [SeqStep.act, hj, TraceReader.next]⟩
  | res =>
    rw [of_decide_eq_true hfit] at hs ⊢
    exact hs
  | tx e => cases hst
  | rx d => cases hst

/-- A transfer step taken up at its start: after `CFG` and `LOAD` it waits for its exchange (R114). -/
theorem State.betweenSteps.load {s : State} (h : s.betweenSteps) {st : SeqStep} {rest : List SeqStep}
    (hl : s.stepsLeft = st :: rest) {tx : Byte} (hst : st.sends s = some tx) :
    ∃ n, (xferLoad tx (xferConfigure s)).waitsAfter n := by
  obtain ⟨hget, -, -⟩ := stepsLeft_cons hl
  obtain ⟨n, hn, -⟩ := openBracket_of_sends hget hst
  obtain ⟨hcs, j, hj⟩ : s.standsAt (some n) := hn ▸ h.stands
  have hsends : st.sends (xferLoad tx (xferConfigure s)) = some tx := (sends_congr st rfl rfl).trans hst
  refine ⟨n, h.constructed, ⟨rfl, rfl, hcs, rfl, configured_inMode0 s.bus, st, hget, hsends⟩, hn, ?_⟩
  cases j <;> simp [hj, TraceReader.next]

/-- An exchange that the environment answers leads on to the next step (R114). -/
theorem State.waitsAfter.answered {s t : State} {n : Nat} (h : s.waitsAfter n) {st : SeqStep}
    {rest : List SeqStep} (hl : s.stepsLeft = st :: rest) {tx : Byte} (hst : st.sends s = some tx)
    (ha : environmentAnswer s = some t) : (nextStep (st.keep (xferTake tx t))).betweenSteps := by
  obtain ⟨b, inputs, m, -, rfl⟩ := environmentAnswer_shape ha
  set u := busComplete b { s with inputs := inputs, draws := m }
  have hsame : SamePosition s (st.keep (xferTake tx u)) := by constructor <;> simp [u]
  obtain ⟨-, hdone⟩ := hsame.nextStep hl
  obtain ⟨p, hp, hafter⟩ := openBracket_of_sends (stepsLeft_cons hl).1 hst
  obtain rfl : p = n := Option.some.inj (hp.symm.trans h.bracket)
  obtain ⟨-, -, hcs, -, -, -⟩ := h.form
  refine ⟨hsame.constructed.trans h.constructed, rfl, by simp, ?_⟩
  rw [hdone, openBracket_append, hp, hafter]
  exact ⟨by simpa [u] using hcs, false, by simp [u, h.trace, TraceReader.next]⟩

/-- A waiting block goes on with its list, if the environment answers, or stays as it is. -/
theorem State.waitsAfter.runSteps_cases {s : State} {n : Nat} (h : s.waitsAfter n) {st : SeqStep}
    {rest : List SeqStep} (hl : s.stepsLeft = st :: rest) :
    runSteps (st :: rest) s = s ∨
    ∃ t, t.betweenSteps ∧ t.stepsLeft = rest ∧ runSteps (st :: rest) s = runSteps rest t := by
  obtain ⟨-, hsub, -, hdone, -, st', hget', hst⟩ := h.form
  obtain rfl : st = st' := Option.some.inj ((stepsLeft_cons hl).1.symm.trans hget')
  have hperform := performStep_transfer hst
  rw [transferByte_wait hsub] at hperform
  rcases xferFinish_cases s.bus.txd s with ⟨hd, -⟩ | ⟨-, t, ha, hx⟩ | ⟨-, -, hx⟩
  · exact absurd hd (by simp [hdone])
  · rw [hx] at hperform
    refine .inr ⟨_, h.answered hl hst ha, ?_, runSteps_completed hperform⟩
    obtain ⟨b, inputs, m, -, rfl⟩ := environmentAnswer_shape ha
    exact (SamePosition.nextStep (by constructor <;> simp) hl).1
  · rw [hx] at hperform
    exact .inl (runSteps_waiting hperform)

/-- A run from between two steps ends with the invariant. -/
theorem runSteps_inv (l : List SeqStep) {s : State} (h : s.betweenSteps) (hl : s.stepsLeft = l) :
    (runSteps l s).inv := by
  induction l generalizing s with
  | nil => exact h.inv_endOperation hl
  | cons st rest ih =>
    cases hst : st.sends s with
    | none =>
      rw [runSteps_completed (performStep_act hst)]
      exact ih (h.act hl hst) ((samePosition_act st s).nextStep hl).1
    | some tx =>
      obtain ⟨n, hw⟩ := h.load hl hst
      have hload : runSteps (st :: rest) s = runSteps (st :: rest) (xferLoad tx (xferConfigure s)) := by
        refine runSteps_congr rest hst ((sends_congr st rfl rfl).trans hst) ?_
        rw [transferByte_cfg h.sub, transferByte_load rfl]
      rw [hload]
      rcases hw.runSteps_cases hl with hrun | ⟨t, ht, hlt, hrun⟩
      · rw [hrun]; exact hw.inv
      · rw [hrun]; exact ih ht hlt

/-- The operation in flight runs on from a wait to a state with the invariant. -/
theorem State.waitsAfter.runOperation_inv {s : State} {n : Nat} (h : s.waitsAfter n) : (runOperation s).inv := by
  rw [runOperation_eq_runSteps]
  cases hl : s.stepsLeft with
  | nil =>
    obtain ⟨-, -, -, -, -, st, hst, -⟩ := h.form
    simp [List.getElem?_eq_none_iff.2 (List.drop_eq_nil_iff.1 hl)] at hst
  | cons st rest =>
    rcases h.runSteps_cases hl with hrun | ⟨t, ht, hlt, hrun⟩
    · rw [hrun]; exact h.inv
    · rw [hrun]; exact runSteps_inv rest ht hlt

/-- A command that a ready block with the invariant takes starts between two steps (R117). -/
theorem State.inv.takeCommand {s : State} (h : s.inv) (hr : s.ready = true) (op : SeqOp) (a v : Half) :
    (takeCommand op { s with addr := a, value := v }).betweenSteps := by
  obtain ⟨hc, hop⟩ := ready_iff.1 hr
  obtain ⟨⟨hseq, hcs⟩, j, hj⟩ := (h hc).1 hop
  exact ⟨hc, rfl, by simp [hseq, Sequencer.atRest], hcs, j, hj⟩

/-- `construct` leaves the invariant, whatever was before it (R180). -/
theorem constructed_inv (line : LineId) (org : Org) (s : State) : (constructed line org s).inv :=
  fun _ => ⟨fun _ => ⟨⟨rfl, rfl⟩, false, rfl⟩, fun hop => absurd rfl hop⟩

/-- Every instruction keeps the invariant. -/
theorem exec_inv {i : Instr} {s t : State} (h : s.inv) (he : exec i s = .next t) : t.inv := by
  rcases exec_cases he with rfl | ⟨line, org, -, -, rfl⟩ | ⟨op, a, v, hr, -, rfl⟩
  · exact h
  · exact constructed_inv line org s
  · exact runSteps_inv _ (h.takeCommand hr op a v) rfl

/-- Settles O48: between two steps of a run the invariant has a form of its own (`betweenSteps`), which every step
of a step list keeps and from which both ends of a run, the idle block and the wait, have the invariant. -/
theorem invariantKept : Obligations.InvariantKept := by
  intro s t h hstep
  rcases step_cases hstep with ⟨hf, rfl⟩ | ⟨rest, -, rfl⟩ | ⟨c, rest, i, -, -, he⟩ | ⟨b, rest, -, hf, rfl⟩
  · obtain ⟨n, hw⟩ := h.waitsAfter hf
    exact hw.runOperation_inv
  · exact h
  · exact exec_inv (s := { s with inputs := rest }) h he
  · intro hc
    have hop : s.seq.op = .none := by simpa [State.inFlight, show s.constructed = true from hc] using hf
    exact ⟨(h hc).1, fun hne => absurd hop hne⟩

/-- Settles O47: the reset state is idle behind the one event `Cs0`, and its array has no entry. -/
theorem invariantAtReset : Obligations.InvariantAtReset :=
  ⟨fun _ => ⟨fun _ => ⟨⟨rfl, rfl⟩, false, rfl⟩, fun hop => absurd rfl hop⟩, Memory.wf_nil⟩

/-! ### What every step leaves alone -/

/-- No operation of the block writes the configuration, the pin directions or the environment's parameters (R25,
R27, R66). -/
theorem sameSetting_keptByOps : KeptByOps SameSetting := by
  constructor
  case trans =>
    intro s t u h k
    exact ⟨k.constructed.trans h.constructed, k.cfg.trans h.cfg, k.dir.trans h.dir,
      k.responsive.trans h.responsive, k.attached.trans h.attached, k.devOrg.trans h.devOrg,
      k.erased.trans h.erased⟩
  all_goals intros; constructor <;> simp

/-- A step of a constructed block keeps its setting (R25, R27). -/
theorem step_sameSetting {s t : State} (hc : s.constructed = true) (h : step s = .next t) : SameSetting s t := by
  rcases step_cases h with ⟨-, rfl⟩ | ⟨rest, -, rfl⟩ | ⟨c, rest, i, -, -, he⟩ | ⟨b, rest, -, -, rfl⟩
  · exact sameSetting_keptByOps.runOperation s
  · exact ⟨rfl, rfl, rfl, rfl, rfl, rfl, rfl⟩
  · rcases exec_cases he with rfl | ⟨line, org, -, hn, -⟩ | ⟨op, a, v, -, -, rfl⟩
    · exact ⟨rfl, rfl, rfl, rfl, rfl, rfl, rfl⟩
    · exact absurd (hn : s.constructed = false) (by simp [hc])
    · obtain ⟨h1, h2, h3, h4, h5, h6, h7⟩ := sameSetting_keptByOps.runOperation
        (takeCommand op { s with inputs := rest, addr := a, value := v })
      exact ⟨h1, h2, h3, h4, h5, h6, h7⟩
  · exact ⟨rfl, rfl, rfl, rfl, rfl, rfl, rfl⟩

/-- `construct` on a block that is not constructed (R180). -/
theorem exec_construct {s : State} (h : s.constructed = false) (line : LineId) (org : Org) :
    exec (.construct line org) s = .next (constructed line org s) := by
  simp [exec, execConstruct, h]

/-- Settles O51: no step of a constructed block changes its setting. -/
theorem handleNeverChanges : Obligations.HandleNeverChanges := by
  refine ⟨fun s line org h => ⟨_, exec_construct h line org, rfl, rfl, rfl, rfl, rfl⟩, fun s t hc h => ?_⟩
  have hs := step_sameSetting hc h
  exact ⟨hs.constructed.trans hc, hs.cfg, hs.dir⟩

/-! ### Reachable states -/

/-- A run of one step more that no agent breaks. -/
theorem run_succ {M : Host.Core} {n : Nat} {s t : M.State} (h : M.run (n + 1) s = .next t) :
    ∃ u, M.step s = .next u ∧ M.run n u = .next t := by
  unfold Host.Core.run at h
  split at h
  next u hu => exact ⟨u, hu, h⟩
  all_goals cases h

/-- What every step keeps holds after every run that no agent breaks. -/
theorem run_induction {P : State → Prop} (hP : ∀ s t, P s → step s = .next t → P t) (n : Nat) {s t : State}
    (hs : P s) (h : Host.Core.run Sys2Proof.core n s = .next t) : P t := by
  induction n generalizing s with
  | zero => cases h; exact hs
  | succ n ih =>
    obtain ⟨u, hu, hrun⟩ := run_succ h
    exact ih (hP s u hs hu) hrun

/-- A constructed block with this handle and with the invariant: what a run from `construct` keeps. -/
structure State.runsAs (s : State) (c : Handle) : Prop where
  constructed : s.constructed = true
  cfg : s.cfg = c
  inv : s.inv

theorem State.runsAs.step {s t : State} {c : Handle} (h : s.runsAs c) (hstep : step s = .next t) : t.runsAs c :=
  have hs := step_sameSetting h.constructed hstep
  ⟨hs.constructed.trans h.constructed, hs.cfg.trans h.cfg, invariantKept s t h.inv hstep⟩

/-- The trace of a block with the invariant reads as one of R43(d). -/
theorem State.inv.trace_reads {s : State} (h : s.inv) (hc : s.constructed = true) :
    (∃ j, readTrace s.trace = .outside j) ∨ ∃ m j, readTrace s.trace = .inside m j ∧ m ≤ 4 := by
  by_cases hop : s.seq.op = .none
  · exact .inl ((h hc).1 hop).2
  · exact .inr ⟨_, true, ((h hc).2 hop).2, exchangesIn_le _ _ _⟩

/-- Settles O50: R43 of one state follows from the invariant, which holds after `construct` and is kept. -/
theorem reachableStates : Obligations.ReachableStates := by
  intro s t line org n hrun
  have h : t.runsAs { line := line, org := org } :=
    run_induction (P := fun u => u.runsAs _) (fun _ _ h => h.step) n
      (s := constructed line org s) ⟨rfl, rfl, constructed_inv line org s⟩ hrun
  have htrace := h.inv.trace_reads h.constructed
  obtain ⟨hidle, hwait⟩ := h.inv h.constructed
  refine ⟨h.cfg, fun hop => ?_, fun hx => ?_, htrace, fun pre post tx rx ht => ?_⟩
  · obtain ⟨hseq, hcs⟩ := (hidle hop).1
    exact ⟨hcs, by rw [hseq]; rfl⟩
  · by_cases hop : t.seq.op = .none
    · obtain ⟨hseq, -⟩ := (hidle hop).1
      rw [hseq] at hx
      cases hx
    · obtain ⟨-, hsub, -, -, -, st, hst, hsends⟩ := (hwait hop).1
      exact ⟨hsub, st, hst, by simp [hsends]⟩
  · refine cfg_before_x (post := post) (tx := tx) (rx := rx) ?_
    rw [← ht]
    rcases htrace with ⟨j, hj⟩ | ⟨m, j, hj, -⟩ <;> simp [hj]

/-! ### The receive latches -/

/-- The three elements that a read leaves its bytes in are as before (R32). -/
structure SameReceived (s t : State) : Prop where
  rxhi : t.rxhi = s.rxhi
  rxlo : t.rxlo = s.rxlo
  result : t.result = s.result

theorem SameReceived.refl (s : State) : SameReceived s s := ⟨rfl, rfl, rfl⟩

theorem SameReceived.trans {s t u : State} (h : SameReceived s t) (k : SameReceived t u) : SameReceived s u :=
  ⟨k.rxhi.trans h.rxhi, k.rxlo.trans h.rxlo, k.result.trans h.result⟩

/-- The step writes a receive latch or the result. -/
def SeqStep.receives : SeqStep → Bool
  | .rx _ => true
  | .res => true
  | .tx _ => false
  | .csa _ => false
  | .csd => false
  | .cfgb => false

/-- Only a read has such steps (R115, R120). -/
theorem stepList_not_receives {op : SeqOp} (hop : op ≠ .readValue) (org : Org) :
    ∀ st ∈ stepList op org, st.receives = false := by
  cases op with
  | readValue => exact absurd rfl hop
  | _ => cases org <;> decide

/-- A byte transfer leaves the received byte in `BUS.RXD` and latches nothing (R114, R115). -/
theorem transferByte_sameReceived (tx : Byte) (s : State) : SameReceived s (transferByte tx s).state := by
  have finish : ∀ u, SameReceived u (xferFinish tx u).state := by
    intro u
    rcases xferFinish_cases tx u with ⟨-, hx⟩ | ⟨-, t, ha, hx⟩ | ⟨-, -, hx⟩
    · rw [hx]; exact ⟨rfl, rfl, rfl⟩
    · obtain ⟨b, rest, n, -, rfl⟩ := environmentAnswer_shape ha
      rw [hx]; exact ⟨rfl, rfl, rfl⟩
    · rw [hx]; exact .refl u
  have load : ∀ u, SameReceived u (xferLoad tx u) := fun _ => ⟨rfl, rfl, rfl⟩
  have configure : SameReceived s (xferConfigure s) := ⟨rfl, rfl, rfl⟩
  unfold transferByte
  split
  · exact configure.trans ((load _).trans (finish _))
  · exact (load s).trans (finish _)
  · exact finish s
  · exact ⟨rfl, rfl, rfl⟩

theorem performStep_sameReceived {st : SeqStep} (h : st.receives = false) (s : State) :
    SameReceived s (performStep st s).state := by
  cases st with
  | tx e =>
    have ht := transferByte_sameReceived (txByte e s) s
    rw [performStep_transfer (st := .tx e) rfl]
    cases hp : transferByte (txByte e s) s <;> rw [hp] at ht <;> exact ht
  | csa kind => exact ⟨rfl, rfl, rfl⟩
  | csd => exact ⟨rfl, rfl, rfl⟩
  | cfgb => exact ⟨rfl, rfl, rfl⟩
  | rx d => cases h
  | res => cases h

/-- A run of steps that receive nothing, to its end or to a wait. -/
theorem runSteps_sameReceived {l : List SeqStep} (h : ∀ st ∈ l, st.receives = false) (s : State) :
    SameReceived s (runSteps l s) := by
  induction l generalizing s with
  | nil => exact ⟨rfl, rfl, rfl⟩
  | cons st rest ih =>
    have hst := performStep_sameReceived (h st List.mem_cons_self) s
    cases hp : performStep st s with
    | completed t =>
      rw [hp] at hst
      rw [runSteps_completed hp]
      have hnext : SameReceived t (nextStep t) := ⟨rfl, rfl, rfl⟩
      exact hst.trans (hnext.trans (ih (fun st' h' => h st' (List.mem_cons_of_mem _ h')) (nextStep t)))
    | waiting t =>
      rw [hp] at hst
      rw [runSteps_waiting hp]
      exact hst

/-- A taken operation other than a read. -/
theorem takeCommand_sameReceived {op : SeqOp} (hop : op ≠ .readValue) {s l : State} (hl : SameReceived s l) :
    SameReceived s (runOperation (takeCommand op l)) := by
  rw [runOperation_takeCommand]
  have htake : SameReceived l (takeCommand op l) := ⟨rfl, rfl, rfl⟩
  exact hl.trans (htake.trans (runSteps_sameReceived (stepList_not_receives hop _) _))

theorem issue_sameReceived {op : SeqOp} (hop : op ≠ .readValue) {s l t : State} (hl : SameReceived s l)
    (h : issue op l s = .next t) : SameReceived s t := by
  rcases issue_cases h with rfl | ⟨-, rfl⟩
  · exact .refl t
  · exact takeCommand_sameReceived hop hl

theorem issueFrame_sameReceived {org : Org} {op : SeqOp} (hop : op ≠ .readValue) {s l t : State}
    (hl : SameReceived s l) (h : issueFrame org op l s = .next t) : SameReceived s t := by
  rcases issueFrame_cases h with rfl | ⟨-, -, rfl⟩
  · exact .refl t
  · exact takeCommand_sameReceived hop hl

/-- Settles O26: each instruction but the excepted ones puts an operation in flight whose step list has no step
that receives. -/
theorem onlyReadsWriteTheResult : Obligations.OnlyReadsWriteTheResult := by
  intro s t i h hread hreadW hreadB hconstruct
  suffices hs : SameReceived s t from ⟨hs.rxhi, hs.rxlo, hs.result⟩
  have hs : SameReceived s s := .refl s
  have ha : ∀ a, SameReceived s (latchAddr a s) := fun _ => ⟨rfl, rfl, rfl⟩
  cases i with
  | readValue a => exact absurd rfl (hread a)
  | readW a => exact absurd rfl (hreadW a)
  | readB a => exact absurd rfl (hreadB a)
  | construct line org => exact absurd rfl (hconstruct line org)
  | configureBus => exact issue_sameReceived (by decide) hs h
  | enableWrite => exact issue_sameReceived (by decide) hs h
  | disableWrite => exact issue_sameReceived (by decide) hs h
  | eraseAll => exact issue_sameReceived (by decide) hs h
  | writeValue a v => exact issue_sameReceived (l := latchValue v (latchAddr a s)) (by decide) ⟨rfl, rfl, rfl⟩ h
  | eraseOne a => exact issue_sameReceived (by decide) (ha a) h
  | enableWriteW x8 => exact issueFrame_sameReceived (by decide) hs h
  | enableWriteB x9 => exact issueFrame_sameReceived (by decide) hs h
  | disableWriteW x8 => exact issueFrame_sameReceived (by decide) hs h
  | disableWriteB x9 => exact issueFrame_sameReceived (by decide) hs h
  | eraseAllW x8 => exact issueFrame_sameReceived (by decide) hs h
  | eraseAllB x9 => exact issueFrame_sameReceived (by decide) hs h
  | writeW a => exact issueFrame_sameReceived (by decide) (ha _) h
  | writeB a => exact issueFrame_sameReceived (by decide) (ha _) h
  | eraseOneW a => exact issueFrame_sameReceived (by decide) (ha _) h
  | eraseOneB a => exact issueFrame_sameReceived (by decide) (ha _) h

/-! ### The sub-step sequencer -/

/-- Where the block moves, that is the next move. -/
theorem microStep_of_blockStep {s t : State} (h : blockStep s = some t) : microStep s = some t := by
  simp [microStep, h]

/-- The block's move in a step that transfers nothing. -/
theorem blockStep_act {s : State} (hf : s.inFlight = true) {st : SeqStep} {rest : List SeqStep}
    (hl : s.stepsLeft = st :: rest) (hst : st.sends s = none) :
    blockStep s = some (stepCompleted (st.act s)) := by
  simp [blockStep, hf, (stepsLeft_cons hl).1, hst]

/-- Completing a step is the composite run's `nextStep`, and its end after the last step (R121). -/
theorem stepCompleted_eq {s t : State} (hp : SamePosition s t) {st : SeqStep} {rest : List SeqStep}
    (hl : s.stepsLeft = st :: rest) :
    stepCompleted t = if rest = [] then endOperation (nextStep t) else nextStep t := by
  have hnil : rest = [] ↔ ¬ (nextStep t).seq.step < (stepList t.seq.op t.cfg.org).length := by
    rw [← (hp.nextStep hl).1, State.stepsLeft, List.drop_eq_nil_iff, Nat.not_lt]
    rfl
  unfold stepCompleted
  by_cases hlt : (nextStep t).seq.step < (stepList t.seq.op t.cfg.org).length
  · rw [if_neg fun h => hnil.1 h hlt]
    exact if_pos hlt
  · rw [if_pos (hnil.2 hlt)]
    exact if_neg hlt

/-- The operation in flight stands at the transfer step `st`, which sends `tx`, with the steps `rest` after it. -/
structure State.transfers (s : State) (st : SeqStep) (rest : List SeqStep) (tx : Byte) : Prop where
  inFlight : s.inFlight = true
  left : s.stepsLeft = st :: rest
  sends : st.sends s = some tx

/-- The sub-steps before `TAKE` leave the transfer step as it is. -/
theorem State.transfers.of_same {s t : State} {st : SeqStep} {rest : List SeqStep} {tx : Byte}
    (h : s.transfers st rest tx) (hp : SamePosition s t) (hf : t.frame = s.frame) (hv : t.value = s.value) :
    t.transfers st rest tx :=
  ⟨hp.inFlight h.inFlight,
    by simpa [State.stepsLeft, hp.cfg, hp.op, hp.step] using h.left, (sends_congr st hf hv).trans h.sends⟩

/-- The block's own moves in a byte transfer (R114). -/
theorem State.transfers.blockStep_eq {s : State} {st : SeqStep} {rest : List SeqStep} {tx : Byte}
    (h : s.transfers st rest tx) :
    blockStep s = match s.seq.sub with
      | .cfg => some (xferConfigure s)
      | .load => some (xferLoad tx s)
      | .wait => if s.bus.done then some { s with seq := { s.seq with sub := .take } } else none
      | .take => some (stepCompleted (st.keep (xferTake tx s))) := by
  cases hsub : s.seq.sub <;>
    simp [blockStep, h.inFlight, (stepsLeft_cons h.left).1, h.sends, hsub]

/-- The sub-steps from `s` lead to `t`, and there nobody has a move left. -/
structure EndsAt (s t : State) : Prop where
  reaches : ∃ n, microRun n s = t
  stuck : microStep t = none

/-- A move, and the moves after it. -/
theorem EndsAt.head {s t u : State} (h : microStep s = some t) (k : EndsAt t u) : EndsAt s u := by
  obtain ⟨⟨n, hn⟩, hu⟩ := k
  exact ⟨⟨n + 1, by simp [microRun, h, hn]⟩, hu⟩

/-- An ended operation leaves nobody a move. -/
theorem endsAt_endOperation (s : State) : EndsAt (endOperation s) (endOperation s) :=
  ⟨⟨0, rfl⟩, by simp [microStep, blockStep, State.inFlight]⟩

section Transfer

/-! In this section the hypothesis `next` says that after the transfer step the sub-steps lead where the composite run leads. -/

variable {st : SeqStep} {rest : List SeqStep} {tx : Byte}
  (next : ∀ s t : State, s.inFlight = true → s.stepsLeft = st :: rest → SamePosition s t →
    EndsAt (stepCompleted t) (runSteps rest (nextStep t)))
include next

/-- From `TAKE` on. -/
theorem endsAt_of_take {s : State} (h : s.transfers st rest tx) (hsub : s.seq.sub = .take) :
    EndsAt s (runSteps (st :: rest) s) := by
  have hmove : microStep s = some (stepCompleted (st.keep (xferTake tx s))) :=
    microStep_of_blockStep (by rw [h.blockStep_eq, hsub])
  rw [runSteps_completed (by rw [performStep_transfer h.sends, transferByte_take hsub])]
  exact (next s _ h.inFlight h.left (by constructor <;> simp)).head hmove

/-- From `WAIT` on, when the exchange is over. -/
theorem endsAt_of_done {s : State} (h : s.transfers st rest tx) (hsub : s.seq.sub = .wait)
    (hd : s.bus.done = true) : EndsAt s (runSteps (st :: rest) s) := by
  set u : State := { s with seq := { s.seq with sub := .take } }
  have hmove : microStep s = some u := microStep_of_blockStep (by simp [h.blockStep_eq, hsub, hd, u])
  have hu : u.transfers st rest tx := h.of_same ⟨rfl, rfl, rfl, rfl⟩ rfl rfl
  have hgoes : transferByte tx s = transferByte tx u := by
    rw [transferByte_wait hsub, transferByte_take rfl]
    simp [xferFinish, hd]
    rfl
  rw [runSteps_congr rest h.sends hu.sends hgoes]
  exact (endsAt_of_take next hu rfl).head hmove

/-- From `WAIT` on. -/
theorem endsAt_of_wait {s : State} (h : s.transfers st rest tx) (hsub : s.seq.sub = .wait) :
    EndsAt s (runSteps (st :: rest) s) := by
  have hperform := performStep_transfer h.sends
  rw [transferByte_wait hsub] at hperform
  rcases xferFinish_cases tx s with ⟨hd, -⟩ | ⟨hd, t, ha, hx⟩ | ⟨hd, ha, hx⟩
  · exact endsAt_of_done next h hsub hd
  · have hmove : microStep s = some t := by simp [microStep, h.blockStep_eq, hsub, hd, h.inFlight, ha]
    obtain ⟨b, inputs, m, -, rfl⟩ := environmentAnswer_shape ha
    set t := busComplete b { s with inputs := inputs, draws := m }
    have ht : t.transfers st rest tx := h.of_same ⟨rfl, rfl, rfl, rfl⟩ rfl rfl
    have hgoes : transferByte tx s = transferByte tx t := by
      rw [transferByte_wait hsub, hx, transferByte_wait (s := t) hsub]
      rfl
    rw [runSteps_congr rest h.sends ht.sends hgoes]
    exact (endsAt_of_done next ht hsub rfl).head hmove
  · rw [hx] at hperform
    rw [runSteps_waiting hperform]
    exact ⟨⟨0, rfl⟩, by simp [microStep, h.blockStep_eq, hsub, hd, ha]⟩

/-- From `LOAD` on. -/
theorem endsAt_of_load {s : State} (h : s.transfers st rest tx) (hsub : s.seq.sub = .load) :
    EndsAt s (runSteps (st :: rest) s) := by
  have hmove : microStep s = some (xferLoad tx s) := microStep_of_blockStep (by rw [h.blockStep_eq, hsub])
  have ht : (xferLoad tx s).transfers st rest tx := h.of_same ⟨rfl, rfl, rfl, rfl⟩ rfl rfl
  rw [runSteps_congr rest h.sends ht.sends (transferByte_load hsub tx)]
  exact (endsAt_of_wait next ht rfl).head hmove

/-- From `CFG` on. -/
theorem endsAt_of_cfg {s : State} (h : s.transfers st rest tx) (hsub : s.seq.sub = .cfg) :
    EndsAt s (runSteps (st :: rest) s) := by
  have hmove : microStep s = some (xferConfigure s) := microStep_of_blockStep (by rw [h.blockStep_eq, hsub])
  have ht : (xferConfigure s).transfers st rest tx := h.of_same ⟨rfl, rfl, rfl, rfl⟩ rfl rfl
  rw [runSteps_congr rest h.sends ht.sends (transferByte_cfg hsub tx)]
  exact (endsAt_of_load next ht rfl).head hmove

/-- From any sub-step on (R114). -/
theorem endsAt_transfer {s : State} (h : s.transfers st rest tx) : EndsAt s (runSteps (st :: rest) s) := by
  cases hsub : s.seq.sub with
  | cfg => exact endsAt_of_cfg next h hsub
  | load => exact endsAt_of_load next h hsub
  | wait => exact endsAt_of_wait next h hsub
  | take => exact endsAt_of_take next h hsub

end Transfer

/-- The sub-steps of the steps left lead where the composite run of them leads. -/
theorem endsAt_runSteps (l : List SeqStep) {s : State} (hf : s.inFlight = true) (hl : s.stepsLeft = l) :
    EndsAt s (runSteps l s) := by
  induction l generalizing s with
  | nil =>
    have hmove : microStep s = some (endOperation s) := microStep_of_blockStep <| by
      simp [blockStep, hf, List.getElem?_eq_none_iff.2 (List.drop_eq_nil_iff.1 hl)]
    exact (endsAt_endOperation s).head hmove
  | cons st rest ih =>
    have next : ∀ s t : State, s.inFlight = true → s.stepsLeft = st :: rest → SamePosition s t →
        EndsAt (stepCompleted t) (runSteps rest (nextStep t)) := by
      intro s t hf hl hp
      rw [stepCompleted_eq hp hl]
      split
      next hr => subst hr; exact endsAt_endOperation (nextStep t)
      next hr =>
        exact ih (hp.inFlight hf) (hp.nextStep hl).1
    cases hst : st.sends s with
    | none =>
      rw [runSteps_completed (performStep_act hst)]
      exact (next s _ hf hl (samePosition_act st s)).head (microStep_of_blockStep (blockStep_act hf hl hst))
    | some tx => exact endsAt_transfer next ⟨hf, hl, hst⟩

/-- Settles O30, by induction on the steps left and, in a transfer step, sub-step by sub-step. -/
theorem compositeStepIsTheSequencer : Obligations.CompositeStepIsTheSequencer := by
  intro s hf
  obtain ⟨⟨n, hn⟩, hstuck⟩ := endsAt_runSteps s.stepsLeft hf rfl
  exact ⟨n, hn, hstuck⟩

/-! ### The lines -/

/-- One level more shifted in. -/
theorem shiftIn_append (levels : List Bool) (l : Bool) :
    shiftIn (levels ++ [l]) = (shiftIn levels <<< 1) ||| (if l then 1 else 0) := by
  simp [shiftIn]

/-- Shifting one bit less far to the right appends that bit at the low end. -/
theorem ushiftRight_succ_shiftLeft (b : Byte) (m : Nat) :
    ((b >>> (m + 1)) <<< 1) ||| (if b.getLsbD m then 1 else 0) = b >>> m := by
  ext i hi
  cases i with
  | zero => cases hb : b.getLsbD m <;> simp [hb]
  | succ i => cases hb : b.getLsbD m <;> simp [Nat.add_assoc, Nat.add_comm 1 i]

/-- After `k` pulses the upper `k` bits of a byte have been assembled. -/
theorem shiftIn_upper (b : Byte) (k : Nat) (hk : k ≤ 8) :
    shiftIn ((List.range k).map fun i => b.getLsbD (7 - i)) = b >>> (8 - k) := by
  induction k with
  | zero => exact (BitVec.ushiftRight_eq_zero (by omega)).symm
  | succ k ih =>
    have hshift : 8 - k = 8 - (k + 1) + 1 := by omega
    have hbit : 7 - k = 8 - (k + 1) := by omega
    rw [List.range_succ, List.map_append, List.map_singleton, shiftIn_append, ih (by omega), hshift, hbit,
      ushiftRight_succ_shiftLeft]

/-- Settles O53: the eight pulses shift the whole of both bytes through. -/
theorem linesCarryTheBytes : Obligations.LinesCarryTheBytes := by
  intro tx rx
  have hdout : (pulses tx rx).map Pulse.dout = (List.range 8).map fun i => tx.getLsbD (7 - i) := by
    rw [pulses, List.map_map]; rfl
  have hdin : (pulses tx rx).map Pulse.din = (List.range 8).map fun i => rx.getLsbD (7 - i) := by
    rw [pulses, List.map_map]; rfl
  rw [hdout, hdin, shiftIn_upper tx 8 le_rfl, shiftIn_upper rx 8 le_rfl]
  exact ⟨by simp [pulses], by simp, by simp, rfl⟩

/-! ### The moves of the other agents -/

/-- Settles O35, by whether an operation is in flight. -/
theorem otherBusUsers : Obligations.OtherBusUsers := by
  intro s b rest hi
  have hstep : step s = busUserActs b { s with inputs := rest } := by simp [step, hi]
  have hflight : ({ s with inputs := rest } : State).inFlight = s.inFlight := rfl
  refine ⟨fun hf => ?_, fun hf => ?_⟩ <;> simp [hstep, busUserActs, hflight, hf]

/-- Settles O56: with nothing in flight `completionArrives` only takes the move away. -/
theorem idleCompletionDropped : Obligations.IdleCompletionDropped := by
  intro s rx rest hi hf
  have hstep : step s = completionArrives rest s := by simp [step, hi]
  simp [hstep, completionArrives, hf]

/-- Settles O52, field by field. -/
theorem resetState : Obligations.ResetState := ⟨rfl, rfl, rfl, rfl, rfl, rfl⟩

end Sys2Proof.Machine

/-! ## The device array: frames as the device reads them, the device, and the operations that store and load

Proofs about spec/20_memory.md. The order: the fields of a sent frame, units of the array, what the device answers and
commits, what one bracket does to it, and the operations against the attached device. -/

namespace Sys2Proof.Machine

/-! ### The frames that the block sends, as the device reads them -/

/-- An address below `2 ^ k` has no bit in a field that starts at `k`. -/
theorem extractLsb'_eq_zero_of_lt {a : Half} {k : Nat} (h : a.toNat < 2 ^ k) (len : Nat) :
    a.extractLsb' k len = 0 := by
  apply BitVec.eq_of_toNat_eq
  simp [Nat.shiftRight_eq_div_pow, Nat.div_eq_of_lt h]

/-- A word-organized unit address, as the device takes it from the low ten bits of a frame (R96). -/
theorem setWidth_lowTen (a : Half) : (a.extractLsb' 0 10).setWidth 11 = unitOf (a &&& 0x03FF) := by
  ext i hi
  simp only [unitOf, BitVec.getElem_setWidth, BitVec.getLsbD_extractLsb', BitVec.getLsbD_and]
  interval_cases i <;> simp

/-- A valid word-organized address has no bit above the ten of its field (R51). -/
theorem and_lowTen_of_lt {a : Half} (h : a.toNat < 1024) : a &&& 0x03FF = a := by
  apply BitVec.eq_of_toNat_eq
  rw [BitVec.toNat_and]
  exact (Nat.and_two_pow_sub_one_eq_mod a.toNat 10).trans (Nat.mod_eq_of_lt h)

/-- The fields of a word-organized frame with a valid address: the opcode's bits above, the unit below (R94). -/
theorem mergedFields_word16 {base a : Half} {op : BitVec 6} (hop : base.extractLsb' 10 6 = op)
    (hlow : base.extractLsb' 0 10 = 0) (ha : a.toNat < 1024) :
    (base ||| a).extractLsb' 10 6 = op ∧ ((base ||| a).extractLsb' 0 10).setWidth 11 = unitOf a := by
  have hhigh : a.extractLsb' 10 6 = 0 := extractLsb'_eq_zero_of_lt ha 6
  rw [BitVec.extractLsb'_or, BitVec.extractLsb'_or, hhigh, hop, hlow]
  refine ⟨BitVec.or_zero, ?_⟩
  rw [show (0 : BitVec 10) ||| a.extractLsb' 0 10 = a.extractLsb' 0 10 from BitVec.zero_or, setWidth_lowTen,
    and_lowTen_of_lt ha]

/-- The fields of a byte-organized frame with a valid address (R94). -/
theorem mergedFields_byte8 {base a : Half} {op : BitVec 5} (hop : base.extractLsb' 11 5 = op)
    (hlow : base.extractLsb' 0 11 = 0) (ha : a.toNat < 2048) :
    (base ||| a).extractLsb' 11 5 = op ∧ (base ||| a).extractLsb' 0 11 = unitOf a := by
  have hhigh : a.extractLsb' 11 5 = 0 := extractLsb'_eq_zero_of_lt ha 5
  rw [BitVec.extractLsb'_or, BitVec.extractLsb'_or, hhigh, hop, hlow]
  exact ⟨BitVec.or_zero, BitVec.zero_or.trans (by ext i hi; simp [unitOf])⟩

theorem validAddress_word16 {a : Half} : validAddress .word16 a = true ↔ a.toNat < 1024 := decide_eq_true_iff

theorem validAddress_byte8 {a : Half} : validAddress .byte8 a = true ↔ a.toNat < 2048 := decide_eq_true_iff

/-! The addressed commands by the field of a frame above the address (R96). -/

theorem decodeFrame_word16_write {f : Half} (h : f.extractLsb' 10 6 = 5) :
    decodeFrame .word16 f = .write ((f.extractLsb' 0 10).setWidth 11) := by simp [decodeFrame, h]

theorem decodeFrame_word16_read {f : Half} (h : f.extractLsb' 10 6 = 6) :
    decodeFrame .word16 f = .read ((f.extractLsb' 0 10).setWidth 11) := by simp [decodeFrame, h]

theorem decodeFrame_word16_eraseOne {f : Half} (h : f.extractLsb' 10 6 = 7) :
    decodeFrame .word16 f = .eraseOne ((f.extractLsb' 0 10).setWidth 11) := by simp [decodeFrame, h]

theorem decodeFrame_byte8_write {f : Half} (h : f.extractLsb' 11 5 = 5) :
    decodeFrame .byte8 f = .write (f.extractLsb' 0 11) := by simp [decodeFrame, h]

theorem decodeFrame_byte8_read {f : Half} (h : f.extractLsb' 11 5 = 6) :
    decodeFrame .byte8 f = .read (f.extractLsb' 0 11) := by simp [decodeFrame, h]

theorem decodeFrame_byte8_eraseOne {f : Half} (h : f.extractLsb' 11 5 = 7) :
    decodeFrame .byte8 f = .eraseOne (f.extractLsb' 0 11) := by simp [decodeFrame, h]

/-- The device reads the write frame of a valid address as a write to its unit (R96). -/
theorem decodeFrame_writeFrame {org : Org} {a : Half} (h : validAddress org a = true) :
    decodeFrame org (writeFrame org a) = .write (unitOf a) := by
  cases org with
  | word16 =>
    obtain ⟨hop, hunit⟩ := mergedFields_word16 (base := 0x1400) rfl rfl (validAddress_word16.1 h)
    exact (decodeFrame_word16_write hop).trans (congrArg _ hunit)
  | byte8 =>
    obtain ⟨hop, hunit⟩ := mergedFields_byte8 (base := 0x2800) rfl rfl (validAddress_byte8.1 h)
    exact (decodeFrame_byte8_write hop).trans (congrArg _ hunit)

/-- The device reads the read frame of a valid address as a read of its unit (R96). -/
theorem decodeFrame_readFrame {org : Org} {a : Half} (h : validAddress org a = true) :
    decodeFrame org (readFrame org a) = .read (unitOf a) := by
  cases org with
  | word16 =>
    obtain ⟨hop, hunit⟩ := mergedFields_word16 (base := 0x1800) rfl rfl (validAddress_word16.1 h)
    exact (decodeFrame_word16_read hop).trans (congrArg _ hunit)
  | byte8 =>
    obtain ⟨hop, hunit⟩ := mergedFields_byte8 (base := 0x3000) rfl rfl (validAddress_byte8.1 h)
    exact (decodeFrame_byte8_read hop).trans (congrArg _ hunit)

/-- The device reads the erase frame of a valid address as an erase of its unit (R96). -/
theorem decodeFrame_eraseOneFrame {org : Org} {a : Half} (h : validAddress org a = true) :
    decodeFrame org (eraseOneFrame org a) = .eraseOne (unitOf a) := by
  cases org with
  | word16 =>
    obtain ⟨hop, hunit⟩ := mergedFields_word16 (base := 0x1C00) rfl rfl (validAddress_word16.1 h)
    exact (decodeFrame_word16_eraseOne hop).trans (congrArg _ hunit)
  | byte8 =>
    obtain ⟨hop, hunit⟩ := mergedFields_byte8 (base := 0x3800) rfl rfl (validAddress_byte8.1 h)
    exact (decodeFrame_byte8_eraseOne hop).trans (congrArg _ hunit)

/-- A word-organized read whose address has bit 10 set and nothing above bit 12 is an erase to the device (R98). -/
theorem decodeFrame_readFrame_bit10 {a : Half} (htop : a &&& 0xE000 = 0) (h10 : a.getLsbD 10 = true) :
    decodeFrame .word16 (readFrame .word16 a) = .eraseOne (unitOf (a &&& 0x03FF)) := by
  have field : ∀ x : BitVec 6, x &&& 0b111000 = 0 → x.getLsbD 0 = true → 6 ||| x = 7 := by decide
  have hop : (readFrame .word16 a).extractLsb' 10 6 = 7 := by
    refine BitVec.extractLsb'_or.trans (field _ ?_ (by simpa using h10))
    exact BitVec.extractLsb'_and.symm.trans (congrArg (BitVec.extractLsb' 10 6) htop)
  have hlow : (readFrame .word16 a).extractLsb' 0 10 = a.extractLsb' 0 10 :=
    BitVec.extractLsb'_or.trans BitVec.zero_or
  rw [decodeFrame_word16_eraseOne hop, hlow, setWidth_lowTen]

theorem decodeFrame_frameOf_enable (org : Org) (a : Half) : decodeFrame org (frameOf .enable org a) = .enable := by
  show decodeFrame org (shiftOrg org (baseOpcode .enable)) = _
  cases org <;> rfl

theorem decodeFrame_frameOf_disable (org : Org) (a : Half) :
    decodeFrame org (frameOf .disable org a) = .disable := by
  show decodeFrame org (shiftOrg org (baseOpcode .disable)) = _
  cases org <;> rfl

theorem decodeFrame_frameOf_eraseAll (org : Org) (a : Half) :
    decodeFrame org (frameOf .eraseAll org a) = .eraseAll := by
  show decodeFrame org (shiftOrg org (baseOpcode .eraseAll)) = _
  cases org <;> rfl

/-! ### Units of the array -/

@[simp] theorem lo8_zext16 (b : Byte) : lo8 (zext16 b) = b := by
  ext i hi
  simp [lo8, zext16, BitVec.getLsbD_eq_getElem, hi, Nat.lt_trans hi]

/-- The low byte of a half, as a half (R11, R55). -/
theorem zext16_lo8 (v : Half) : zext16 (lo8 v) = v &&& 0x00FF := by
  ext i hi
  simp only [zext16, lo8, BitVec.getElem_setWidth, BitVec.getLsbD_extractLsb', BitVec.getElem_and]
  interval_cases i <;> simp

/-- A written unit reads as the value written, in `BYTE8` as its low byte (R55). -/
theorem memRead_memWrite (org : Org) {m : Memory} (hm : m.wf = true) (a : BitVec 11) (v : Half) :
    memRead org (memWrite org m a v) a = unitValue org v := by
  cases org with
  | word16 => exact memRead_memWrite_word16 hm a v
  | byte8 => rw [memRead_memWrite_byte8 hm, zext16_lo8]; rfl

/-- Every unit of a filled array reads as the fill (R70). -/
theorem memRead_memFill (org : Org) (v : Half) (a : BitVec 11) :
    memRead org (memFill org v) a = unitValue org v := by
  cases org with
  | word16 =>
    have heven : wordKey a % 2 = 0 := by simp [wordKey]
    have hodd : (wordKey a + 1) % 2 ≠ 0 := by simp [wordKey]
    simp only [memRead, memFill, Memory.read_filled _ (wordKey_lt a),
      Memory.read_filled _ (Nat.lt_of_succ_lt (wordKey_lt a)), if_pos heven, if_neg hodd, joinBytes_hi8_lo8]
    rfl
  | byte8 =>
    simp only [memRead, memFill, Memory.read_filled _ (byteKey_lt a), zext16_lo8]
    rfl

/-- The two halves of a read assemble to what the unit holds (R69, R142). -/
theorem assembleResult_memRead (org : Org) (m : Memory) (a : BitVec 11) (hi : Byte)
    (h : org = .word16 → hi = hi8 (memRead .word16 m a)) :
    assembleResult org hi (lo8 (memRead org m a)) = memRead org m a := by
  cases org with
  | word16 => rw [h rfl]; exact joinBytes_hi8_lo8 _
  | byte8 => simp [assembleResult, memRead]

/-! ### What the device answers -/

/-- Before the second byte there is no command (R68). -/
theorem command_of_length_lt {d : RefDev} (h : d.tb.length < 2) : d.command = none := by
  unfold RefDev.command
  split
  next hi lo rest htb => simp [htb] at h
  next => rfl

/-- From the second byte on the command is the frame of the first two (R68). -/
theorem command_of_tb {d : RefDev} {hi lo : Byte} {rest : List Byte} (h : d.tb = hi :: lo :: rest) :
    d.command = some (decodeFrame d.org (joinBytes hi lo)) := by
  simp [RefDev.command, h]

theorem answer_unselected {d : RefDev} (h : d.sel = false) (draw : Byte) : d.answer draw = draw := by
  simp [RefDev.answer, h]

/-- The device drives nothing outside a read (R69). -/
theorem answer_of_not_read {d : RefDev} (h : ∀ a, d.command ≠ some (.read a)) (draw : Byte) :
    d.answer draw = draw := by
  unfold RefDev.answer
  split
  · split
    next a hc => exact absurd hc (h a)
    next => rfl
  · rfl

/-- The data phase of a word-organized read (R69). -/
theorem answer_read_word16 {d : RefDev} (ha : d.attached = true) (hs : d.sel = true) (ho : d.org = .word16)
    {a : BitVec 11} (hc : d.command = some (.read a)) (draw : Byte) :
    d.answer draw = if d.tb.length = 2 then hi8 (memRead .word16 d.mem a)
      else if d.tb.length = 3 then lo8 (memRead .word16 d.mem a) else draw := by
  simp [RefDev.answer, ha, hs, ho, hc]

/-- The data phase of a byte-organized read (R69). -/
theorem answer_read_byte8 {d : RefDev} (ha : d.attached = true) (hs : d.sel = true) (ho : d.org = .byte8)
    {a : BitVec 11} (hc : d.command = some (.read a)) (draw : Byte) :
    d.answer draw = if d.tb.length = 3 then lo8 (memRead .byte8 d.mem a) else draw := by
  simp [RefDev.answer, ha, hs, ho, hc]

/-- Settles O37, by the number of bytes received and the command they make. -/
theorem deviceAnswers : Obligations.DeviceAnswers := by
  intro d draw ha hs
  refine ⟨fun hl => answer_of_not_read (by simp [command_of_length_lt hl]) draw, fun hi lo rest htb => ?_⟩
  have hcommand := command_of_tb htb
  have hlen : d.tb.length = rest.length + 2 := by simp [htb]
  refine ⟨fun a hread => ?_, fun hne => answer_of_not_read (fun a h => ?_) draw⟩
  · rw [hread] at hcommand
    have word := fun ho => answer_read_word16 ha hs ho hcommand draw
    have byte := fun ho => answer_read_byte8 ha hs ho hcommand draw
    refine ⟨fun ho h0 => ?_, fun ho h1 => ?_, fun ho h0 => ?_, fun ho h1 => ?_, fun h2 => ?_⟩
    · rw [word ho, if_pos (by omega)]; rfl
    · rw [word ho, if_neg (by omega), if_pos (by omega)]; rfl
    · rw [byte ho, if_neg (by omega)]
    · rw [byte ho, if_pos (by omega)]; rfl
    · cases ho : d.org with
      | word16 => rw [word ho, if_neg (by omega), if_neg (by omega)]
      | byte8 => rw [byte ho, if_neg (by omega)]
  · rw [hcommand] at h
    exact hne a (Option.some.inj h)

/-- Settles O36: the clauses of `react` and `answer`; `xferTake` records the byte that `busComplete` took from the
device before. -/
theorem deviceFraming : Obligations.DeviceFraming := by
  refine ⟨fun d ha => ⟨react_select ha, fun tx rx => by simp [RefDev.react, ha], by simp [RefDev.react, ha],
    fun hs draw => answer_unselected hs draw⟩, fun s draw tx _ => ⟨rfl, rfl⟩⟩

/-! ### What the device commits -/

section Commit

variable {d : RefDev}

theorem commit_of_none (h : d.command = none) : d.commit = d := by simp [RefDev.commit, h]

theorem commit_enable (h : d.command = some .enable) : d.commit = { d with wel := true } := by
  simp [RefDev.commit, h]

theorem commit_disable (h : d.command = some .disable) : d.commit = { d with wel := false } := by
  simp [RefDev.commit, h]

theorem commit_eraseAll (h : d.command = some .eraseAll) (hw : d.wel = true) :
    d.commit = { d with mem := memFill d.org d.erased } := by
  simp [RefDev.commit, h, hw]

theorem commit_write {a : BitVec 11} {v : Half} (h : d.command = some (.write a)) (hw : d.wel = true)
    (hv : d.writeData = some v) : d.commit = { d with mem := memWrite d.org d.mem a v } := by
  simp [RefDev.commit, h, hw, hv]

/-- A write whose value bytes have not all arrived (R70). -/
theorem commit_write_short {a : BitVec 11} (h : d.command = some (.write a)) (hv : d.writeData = none) :
    d.commit = d := by
  simp [RefDev.commit, h, hv]

theorem commit_eraseOne {a : BitVec 11} (h : d.command = some (.eraseOne a)) (hw : d.wel = true) :
    d.commit = { d with mem := memWrite d.org d.mem a d.erased } := by
  simp [RefDev.commit, h, hw]

theorem commit_read {a : BitVec 11} (h : d.command = some (.read a)) : d.commit = d := by
  simp [RefDev.commit, h]

/-- Only the enable and the disable command write the latch (R70). -/
theorem commit_wel (he : d.command ≠ some .enable) (hd : d.command ≠ some .disable) : d.commit.wel = d.wel := by
  unfold RefDev.commit
  split
  next h => exact absurd h he
  next h => exact absurd h hd
  next => split <;> rfl
  next =>
    split
    · split <;> rfl
    · rfl
  next => split <;> rfl
  all_goals rfl

/-- The value of a write once its bytes have arrived, and none before (R70). -/
theorem writeData_word16 (ho : d.org = .word16) {hi lo b0 b1 : Byte} {more : List Byte}
    (h : d.tb = hi :: lo :: b0 :: b1 :: more) : d.writeData = some (joinBytes b0 b1) := by
  simp [RefDev.writeData, ho, h]

theorem writeData_byte8 (ho : d.org = .byte8) {hi lo b : Byte} {more : List Byte}
    (h : d.tb = hi :: lo :: b :: more) : d.writeData = some (zext16 b) := by
  simp [RefDev.writeData, ho, h]

theorem writeData_short {hi lo : Byte} {rest : List Byte} (h : d.tb = hi :: lo :: rest)
    (hl : rest.length < (valueBytes d.org 0).length) : d.writeData = none := by
  cases ho : d.org with
  | word16 =>
    rw [ho] at hl
    match rest, hl with
    | [], _ => simp [RefDev.writeData, ho, h]
    | [b], _ => simp [RefDev.writeData, ho, h]
  | byte8 =>
    rw [ho] at hl
    obtain rfl : rest = [] := List.length_eq_zero_iff.1 (Nat.lt_one_iff.1 hl)
    simp [RefDev.writeData, ho, h]

end Commit

/-- Settles O38, command by command: each clause is the lemma about `commit` of that command. -/
theorem deviceCommits : Obligations.DeviceCommits := by
  intro d ha hs hm
  rw [react_deselect ha hs]
  refine ⟨fun hl => by rw [commit_of_none (command_of_length_lt hl)], fun hi lo rest htb => ?_⟩
  have hcommand := command_of_tb htb
  refine ⟨rfl, by simp, by simp, fun k hk => commit_read_other fun c hc => ?_, commit_mem_protected, ?_⟩
  · rw [hcommand] at hc
    cases hc
    exact hk
  cases hframe : decodeFrame d.org (joinBytes hi lo) <;> rw [hframe] at hcommand
  case enable => simp [commit_enable hcommand]
  case disable => simp [commit_disable hcommand]
  all_goals have hwel : d.commit.wel = d.wel := commit_wel (by simp [hcommand]) (by simp [hcommand])
  case read => exact hwel
  case unknown => exact hwel
  case eraseAll =>
    refine ⟨hwel, fun hw a _ => ?_⟩
    simp [commit_eraseAll hcommand hw, memRead_memFill]
  case eraseOne a =>
    refine ⟨hwel, fun hw => ?_⟩
    simp [commit_eraseOne hcommand hw, memRead_memWrite _ hm]
  case write a =>
    refine ⟨hwel, fun hw ho b0 b1 more hrest => ?_, fun hw ho b more hrest => ?_, fun hl => ?_⟩
    · subst hrest
      rw [commit_write hcommand hw (writeData_word16 ho htb), ho]
      exact memRead_memWrite_word16 hm a _
    · subst hrest
      rw [commit_write hcommand hw (writeData_byte8 ho htb), ho]
      simpa using memRead_memWrite_byte8 hm a (zext16 b)
    · rw [commit_write_short hcommand (writeData_short htb hl)]

/-! ### What every step does to the device -/

/-- Settles O11: `step` hands what is presented to `exec` once it is decoded. -/
theorem stepRunsTheDecodedInstruction : Obligations.StepRunsTheDecodedInstruction := by
  intro s c rest i hi hd
  simp [step, hi, presented, hd]

/-- The trace grows by events and the device reacts to just these, in order (R66). -/
def DeviceFollows (s t : State) : Prop := ∃ es, t.trace = s.trace ++ es ∧ t.dev = s.dev.reactAll es

/-- What appends no event and leaves the device alone. -/
theorem DeviceFollows.of_same {s t : State} (ht : t.trace = s.trace) (hd : t.dev = s.dev) : DeviceFollows s t :=
  ⟨[], by simp [ht], by simp [hd]⟩

theorem DeviceFollows.trans {s t u : State} : DeviceFollows s t → DeviceFollows t u → DeviceFollows s u := by
  rintro ⟨es, ht, hd⟩ ⟨fs, hu, hd'⟩
  exact ⟨es ++ fs, by simp [hu, ht], by simp [hd', hd]⟩

/-- An event is put in the trace and before the device together. -/
theorem deviceFollows_emit (e : Event) (s : State) : DeviceFollows s (emit e s) := ⟨[e], rfl, rfl⟩

theorem deviceFollows_keptByOps : KeptByOps DeviceFollows where
  refl _ := .of_same rfl rfl
  trans _ _ _ := .trans
  assertCs f s := deviceFollows_emit (.cs true) { s with frame := f, cs := .asserted }
  deassertCs s := deviceFollows_emit (.cs false) { s with cs := .deasserted }
  configureBus s := deviceFollows_emit .cfg { s with bus := s.bus.configured }
  xferConfigure s := (deviceFollows_emit .cfg { s with bus := s.bus.configured }).trans (.of_same rfl rfl)
  xferLoad _ _ := .of_same rfl rfl
  answer _ _ _ _ _ := .of_same rfl rfl
  xferTake tx s := deviceFollows_emit (.x tx s.bus.rxd) { s with seq := { s.seq.setPhase .idle with sub := .cfg } }
  keepHi _ := .of_same rfl rfl
  keepLo _ := .of_same rfl rfl
  latchResult _ := .of_same rfl rfl
  nextStep _ := .of_same rfl rfl
  endOperation _ := .of_same rfl rfl

/-- In every step the device follows the trace, except where `construct` starts the trace anew (R180). -/
theorem step_deviceFollows {s t : State} (h : step s = .next t) :
    DeviceFollows s t ∨
    ∃ line org rest, s.constructed = false ∧ t = constructed line org { s with inputs := rest } := by
  rcases step_cases h with ⟨-, rfl⟩ | ⟨rest, -, rfl⟩ | ⟨c, rest, i, -, -, he⟩ | ⟨b, rest, -, -, rfl⟩
  · exact .inl (deviceFollows_keptByOps.runOperation s)
  · exact .inl (.of_same rfl rfl)
  · rcases exec_cases he with rfl | ⟨line, org, -, hn, rfl⟩ | ⟨op, a, v, -, -, rfl⟩
    · exact .inl (.of_same rfl rfl)
    · exact .inr ⟨line, org, rest, hn, rfl⟩
    · exact .inl (deviceFollows_keptByOps.runOperation
        (takeCommand op { s with inputs := rest, addr := a, value := v }))
  · exact .inl (.of_same rfl rfl)

/-- Settles O39: every operation of a run emits what it does to the device, no other move touches trace or device,
and a constructed block refuses `construct`. -/
theorem deviceFollowsTheTrace : Obligations.DeviceFollowsTheTrace := by
  intro s t hc h
  rcases step_deviceFollows h with hs | ⟨line, org, rest, hn, -⟩
  · exact hs
  · exact absurd hn (by simp [hc])

/-- A device that has reacted to events keeps its array canonical. -/
theorem reactAll_wf {d : RefDev} (h : d.mem.wf = true) (es : List Event) : (d.reactAll es).mem.wf = true := by
  induction es generalizing d with
  | nil => exact h
  | cons e es ih => exact ih (react_wf h e)

theorem DeviceFollows.arrayCanonical {s t : State} (h : DeviceFollows s t) (hs : s.arrayCanonical) :
    t.arrayCanonical := by
  obtain ⟨es, -, hd⟩ := h
  rw [State.arrayCanonical, hd]
  exact reactAll_wf hs es

/-- Settles O49: in a step of the block the device reacts to events, and reactions keep the form. -/
theorem arrayStaysCanonical : Obligations.ArrayStaysCanonical := by
  intro s t hs h
  rcases step_deviceFollows h with hd | ⟨line, org, rest, -, rfl⟩
  · exact hd.arrayCanonical hs
  · exact react_wf hs _

/-! ### One bracket against the device -/

/-- The device in a bracket in which it has received `tx`. -/
def RefDev.holding (d : RefDev) (tx : List Byte) : RefDev := { d with sel := true, tb := tx }

/-- An open bracket (R67). -/
theorem reactAll_open {d : RefDev} (ha : d.attached = true) {tx rx : List Byte} (hl : rx.length = tx.length) :
    d.reactAll (.cs true :: exchangeEvents tx rx) = d.holding tx := by
  rw [reactAll_cons, react_select ha]
  exact reactAll_exchanges (d := { d with sel := true, tb := [] }) ha rfl hl

/-- The command of a bracket is that of the frame it sends first (R68). -/
theorem command_holding (d : RefDev) (f : Half) (data : List Byte) :
    (d.holding (frameBytes f ++ data)).command = some (decodeFrame d.org f) :=
  command_frameBytes d f data

theorem command_holding_frame (d : RefDev) (f : Half) :
    (d.holding (frameBytes f)).command = some (decodeFrame d.org f) := command_holding d f []

theorem command_holding_enable (d : RefDev) : (d.holding (enableBytes d.org)).command = some .enable := by
  rw [← frameBytes_enable d.org 0, command_holding_frame, decodeFrame_frameOf_enable]

theorem command_holding_disable (d : RefDev) : (d.holding (disableBytes d.org)).command = some .disable := by
  rw [← frameBytes_disable d.org 0, command_holding_frame, decodeFrame_frameOf_disable]

/-- The data bytes of a write bracket are the value written, in `BYTE8` its low byte (R90). -/
theorem writeData_holding (d : RefDev) (f v : Half) :
    (d.holding (frameBytes f ++ valueBytes d.org v)).writeData = some (unitValue d.org v) := by
  cases ho : d.org with
  | word16 =>
    exact (writeData_word16 (d := d.holding (frameBytes f ++ valueBytes .word16 v)) ho rfl).trans
      (congrArg some (joinBytes_hi8_lo8 v))
  | byte8 =>
    exact (writeData_byte8 (d := d.holding (frameBytes f ++ valueBytes .byte8 v)) ho rfl).trans
      (congrArg some (zext16_lo8 v))

section Bracket

/-! What a whole bracket does to an attached device, by the command of the bytes `tx` sent in it (R67, R70). -/

variable {d : RefDev} {tx rx : List Byte}

theorem reactAll_bracket_holding (ha : d.attached = true) (hl : rx.length = tx.length) :
    d.reactAll (bracketEvents tx rx) = { (d.holding tx).commit with sel := false } := reactAll_bracket ha hl

/-- With the latch clear the array is kept, whatever is sent and whether or not the device is attached. -/
theorem bracket_mem_protected (hw : d.wel = false) (hl : rx.length = tx.length) :
    (d.reactAll (bracketEvents tx rx)).mem = d.mem := by
  cases ha : d.attached with
  | true =>
    rw [reactAll_bracket_holding ha hl]
    exact commit_mem_protected (d := d.holding tx) hw
  | false => rw [reactAll_detached ha]

variable (ha : d.attached = true) (hl : rx.length = tx.length)
include ha hl

theorem bracket_enable (hc : (d.holding tx).command = some .enable) :
    d.reactAll (bracketEvents tx rx) = { d with wel := true, sel := false, tb := tx } := by
  rw [reactAll_bracket_holding ha hl, commit_enable hc]
  rfl

theorem bracket_disable (hc : (d.holding tx).command = some .disable) :
    d.reactAll (bracketEvents tx rx) = { d with wel := false, sel := false, tb := tx } := by
  rw [reactAll_bracket_holding ha hl, commit_disable hc]
  rfl

theorem bracket_read {a : BitVec 11} (hc : (d.holding tx).command = some (.read a)) :
    d.reactAll (bracketEvents tx rx) = { d with sel := false, tb := tx } := by
  rw [reactAll_bracket_holding ha hl, commit_read hc]
  rfl

theorem bracket_eraseAll (hw : d.wel = true) (hc : (d.holding tx).command = some .eraseAll) :
    d.reactAll (bracketEvents tx rx) = { d with mem := memFill d.org d.erased, sel := false, tb := tx } := by
  rw [reactAll_bracket_holding ha hl, commit_eraseAll hc hw]
  rfl

theorem bracket_eraseOne (hw : d.wel = true) {a : BitVec 11} (hc : (d.holding tx).command = some (.eraseOne a)) :
    d.reactAll (bracketEvents tx rx) = { d with mem := memWrite d.org d.mem a d.erased, sel := false, tb := tx } := by
  rw [reactAll_bracket_holding ha hl, commit_eraseOne hc hw]
  rfl

theorem bracket_write (hw : d.wel = true) {a : BitVec 11} {v : Half}
    (hc : (d.holding tx).command = some (.write a)) (hv : (d.holding tx).writeData = some v) :
    d.reactAll (bracketEvents tx rx) = { d with mem := memWrite d.org d.mem a v, sel := false, tb := tx } := by
  rw [reactAll_bracket_holding ha hl, commit_write hc hw hv]
  rfl

end Bracket

/-! ### The operations and what is on the bus -/

/-- A block that has run an operation to its end takes the next command (R121). -/
theorem RanToEnd.ready {s t : State} {es : List Event} (h : RanToEnd s t es) (hr : s.ready = true) :
    t.ready = true :=
  ready_iff.2 ⟨h.setting.constructed.trans (ready_iff.1 hr).1, by rw [h.seq]; rfl⟩

/-- An operation that is one bracket with these bytes ran from `s` to its end in `t`. -/
structure RanBracket (s t : State) (tx : List Byte) : Prop where
  ready : t.ready = true
  dev : ∃ rx : List Byte, rx.length = tx.length ∧ t.dev = s.dev.reactAll (bracketEvents tx rx)

theorem RanBracket.of_latchAddr {a : Half} {s t : State} {tx : List Byte} (h : RanBracket (latchAddr a s) t tx) :
    RanBracket s t tx := ⟨h.ready, h.dev⟩

theorem Bracketed.ranBracket {op : SeqOp} {l t : State} {f : Half} {tx rx : List Byte}
    (h : Bracketed (takeCommand op l) t f tx rx) (hr : l.ready = true) : RanBracket l (endOperation t) tx :=
  ⟨h.ranToEnd.ready hr, rx, h.len, h.dev⟩

/-- A command whose operation is one frame and nothing else. -/
theorem issue_frameBracket {op : SeqOp} {kind : FrameKind} (hop : ∀ o, stepList op o = frameBracket kind)
    {l s : State} (hs : s.ready = true) (hl : l.ready = true) (h : l.answersNext 2 = true) :
    ∃ t, issue op l s = .next t ∧ RanBracket l t (frameBytes (frameOf kind l.cfg.org l.addr)) := by
  obtain ⟨t, rx, hb, -, hrun⟩ := run_frameBracket (n := 0) op kind l hop h
  exact ⟨_, by rw [issue_ready hs, hrun], hb.ranBracket hl⟩

section Ready

variable {s : State} (hr : s.ready = true)
include hr

theorem exec_enableWrite (h : s.answersNext 2 = true) :
    ∃ t, exec .enableWrite s = .next t ∧ RanBracket s t (enableBytes s.cfg.org) := by
  rw [← frameBytes_enable s.cfg.org s.addr]
  exact issue_frameBracket (op := .enableWrite) (fun _ => rfl) hr hr h

theorem exec_disableWrite (h : s.answersNext 2 = true) :
    ∃ t, exec .disableWrite s = .next t ∧ RanBracket s t (disableBytes s.cfg.org) := by
  rw [← frameBytes_disable s.cfg.org s.addr]
  exact issue_frameBracket (fun _ => rfl) hr hr h

theorem exec_eraseAll (h : s.answersNext 2 = true) :
    ∃ t, exec .eraseAll s = .next t ∧ RanBracket s t (frameBytes (frameOf .eraseAll s.cfg.org s.addr)) :=
  issue_frameBracket (fun _ => rfl) hr hr h

theorem exec_eraseOne (a : Half) (h : s.answersNext 2 = true) :
    ∃ t, exec (.eraseOne a) s = .next t ∧ RanBracket s t (frameBytes (eraseOneFrame s.cfg.org a)) := by
  rw [← frameOf_eraseOne]
  obtain ⟨t, hexec, hran⟩ := issue_frameBracket (op := .eraseOne) (l := latchAddr a s) (fun _ => rfl) hr hr h
  exact ⟨t, hexec, hran.of_latchAddr⟩

theorem exec_readValue (a : Half) (h : s.answersNext 4 = true) :
    ∃ t, exec (.readValue a) s = .next t ∧ RanBracket s t (readBytes s.cfg.org a) := by
  obtain ⟨t, r0, r1, hi, lo, -, -, rfl, -, -, hran, -, -, -, -, -, -, hdev, -⟩ :=
    run_readValue (n := 0) (latchAddr a s) h
  exact ⟨_, issue_ready hr, hran.of_latchAddr.ready hr, [r0, r1, hi, lo], rfl, hdev⟩

/-- The write bracket alone, in a block of the organization of its row. -/
theorem issueFrame_writeBracket {org : Org} (ho : s.cfg.org = org) (a : Half) (h : s.answersNext 4 = true) :
    ∃ t, issueFrame org .writeBracket (latchAddr a s) s = .next t ∧
      RanBracket s t (writeBytes org a s.value) := by
  subst ho
  have hlen : (writeTx s.cfg.org).length ≤ 4 := by cases s.cfg.org <;> decide
  obtain ⟨t, rx, hb, -, hrun⟩ := run_writeBracket (n := 0) (latchAddr a s) (answersNext_mono h hlen)
  exact ⟨_, by rw [issueFrame_ready hr rfl, hrun], (hb.ranBracket (l := latchAddr a s) hr).of_latchAddr⟩

end Ready

/-- With the latch clear a bracket leaves the array as it is (R70). -/
theorem RanBracket.mem_protected {s t : State} {tx : List Byte} (h : RanBracket s t tx) (hw : s.dev.wel = false) :
    t.dev.mem = s.dev.mem := by
  obtain ⟨-, rx, hl, hdev⟩ := h
  rw [hdev, bracket_mem_protected hw hl]

/-- Settles O43: each of the operations is one bracket, and with the latch clear no bracket changes the array. -/
theorem protectedArrayIsKept : Obligations.ProtectedArrayIsKept := by
  intro s a a10 a11 hr hw h4
  have h2 : s.answersNext 2 = true := answersNext_mono h4 (by decide)
  have kept : ∀ {o : Host.Outcome State Fault Refusal} {tx}, (∃ t, o = .next t ∧ RanBracket s t tx) →
      ∃ t, o = .next t ∧ t.ready = true ∧ t.dev.mem = s.dev.mem := by
    rintro o tx ⟨t, ho, ht⟩
    exact ⟨t, ho, ht.ready, ht.mem_protected hw⟩
  exact ⟨kept (exec_eraseOne hr a h2), kept (exec_eraseAll hr h2), kept (exec_readValue hr a h4),
    fun ho => kept (issueFrame_writeBracket hr ho _ h4), fun ho => kept (issueFrame_writeBracket hr ho _ h4)⟩

/-! ### The operations against the attached device -/

/-- Settles O42: the one bracket of each erase, received with the latch set. -/
theorem erasesUnderTheLatch : Obligations.ErasesUnderTheLatch := by
  rintro s a hr ⟨ha, ho⟩ hm hw h2
  refine ⟨fun hv => ?_, ?_⟩
  · obtain ⟨t, hexec, -, rx, hl, hdev⟩ := exec_eraseOne hr a h2
    have hc := command_holding_frame s.dev (eraseOneFrame s.cfg.org a)
    rw [ho, decodeFrame_eraseOneFrame hv] at hc
    rw [bracket_eraseOne ha hl hw hc, ho] at hdev
    refine ⟨t, hexec, by rw [hdev]; exact hw, ?_, fun k hk => ?_⟩
    · rw [hdev]; exact memRead_memWrite _ hm _ _
    · rw [hdev]; exact memWrite_read_other _ _ _ _ hk
  · obtain ⟨t, hexec, -, rx, hl, hdev⟩ := exec_eraseAll hr h2
    have hc := command_holding_frame s.dev (frameOf .eraseAll s.cfg.org s.addr)
    rw [ho, decodeFrame_frameOf_eraseAll] at hc
    rw [bracket_eraseAll ha hl hw hc, ho] at hdev
    refine ⟨t, hexec, by rw [hdev]; exact hw, fun u _ => ?_⟩
    rw [hdev]; exact memRead_memFill _ _ _

/-- Settles O44: the device takes the read bracket for the erase that its frame is. -/
theorem outOfRangeReadErases : Obligations.OutOfRangeReadErases := by
  rintro s a hr ⟨ha, ho⟩ hm horg hw h4 htop h10
  rw [horg] at ho
  obtain ⟨t, hexec, -, rx, hl, hdev⟩ := exec_readValue hr a h4
  rw [horg] at hl hdev
  have hc := command_holding s.dev (readFrame .word16 a) [Config.dummyTx, Config.dummyTx]
  rw [ho, decodeFrame_readFrame_bit10 htop h10] at hc
  rw [bracket_eraseOne ha hl hw hc, ho] at hdev
  exact ⟨t, hexec, by rw [hdev]; exact memRead_memWrite_word16 hm _ _⟩

/-- The second data byte of a read, in both organizations (R69). -/
theorem answer_read_second {d : RefDev} (ha : d.attached = true) (hs : d.sel = true) (hl : d.tb.length = 3)
    {a : BitVec 11} (hc : d.command = some (.read a)) (draw : Byte) :
    d.answer draw = lo8 (memRead d.org d.mem a) := by
  cases ho : d.org with
  | word16 => rw [answer_read_word16 ha hs ho hc, if_neg (by omega), if_pos hl]
  | byte8 => rw [answer_read_byte8 ha hs ho hc, if_pos hl]

/-- The two data bytes that the device gives in a bracket with a read frame assemble to the unit (R69, R142). -/
theorem assembleResult_answers {d : RefDev} (ha : d.attached = true) {f : Half} {a : BitVec 11}
    (hf : decodeFrame d.org f = .read a) (tx draw draw' : Byte) :
    assembleResult d.org ((d.holding (frameBytes f)).answer draw)
      ((d.holding (frameBytes f ++ [tx])).answer draw') = memRead d.org d.mem a := by
  have hfirst : (d.holding (frameBytes f)).command = some (.read a) := by rw [command_holding_frame, hf]
  have hsecond : (d.holding (frameBytes f ++ [tx])).command = some (.read a) := by rw [command_holding, hf]
  rw [answer_read_second (d := d.holding (frameBytes f ++ [tx])) ha rfl rfl hsecond]
  exact assembleResult_memRead _ _ _ _ fun ho =>
    answer_read_word16 (d := d.holding (frameBytes f)) ha rfl ho hfirst draw

/-- A read of a valid address returns the unit; the device keeps its array and its latch (R69, R142). -/
theorem exec_readValue_valid {s : State} {a : Half} (hr : s.ready = true) (hs : s.served)
    (hv : validAddress s.cfg.org a = true) (h : s.answersNext 4 = true) :
    ∃ t, exec (.readValue a) s = .next t ∧ t.result = memRead s.cfg.org s.dev.mem (unitOf a) ∧
      t.dev = { s.dev with sel := false, tb := readBytes s.cfg.org a } := by
  obtain ⟨ha, ho⟩ := hs
  have hf : decodeFrame s.dev.org (readFrame s.cfg.org a) = .read (unitOf a) := by
    rw [ho, decodeFrame_readFrame hv]
  obtain ⟨t, r0, r1, hi, lo, draw, draw', rfl, hhi, hlo, -, -, -, -, -, -, hres, hdev, -⟩ :=
    run_readValue (n := 0) (latchAddr a s) h
  simp only [latchAddr_dev, latchAddr_cfg, latchAddr_addr] at hhi hlo hres hdev
  have hreceive : (s.dev.holding (frameBytes (readFrame s.cfg.org a))).react (.x Config.dummyTx hi) =
      s.dev.holding (frameBytes (readFrame s.cfg.org a) ++ [Config.dummyTx]) :=
    react_receive (d := s.dev.holding (frameBytes (readFrame s.cfg.org a))) ha rfl _ _
  rw [reactAll_open ha (tx := frameBytes (readFrame s.cfg.org a)) (rx := [r0, r1]) rfl] at hhi hlo
  rw [hreceive] at hlo
  refine ⟨_, issue_ready hr, ?_, ?_⟩
  · have hunit := assembleResult_answers ha hf Config.dummyTx draw draw'
    rw [ho] at hunit
    rw [hres, hhi, hlo, hunit]
  · rw [hdev]
    exact bracket_read ha rfl (by rw [readBytes, command_holding, hf])

/-- Settles O41: the read returns the unit and a read frame commits nothing. -/
theorem readReturnsTheUnit : Obligations.ReadReturnsTheUnit := by
  intro s a hr hs hv h
  obtain ⟨t, hexec, hres, hdev⟩ := exec_readValue_valid hr hs hv h
  exact ⟨t, hexec, hres, fun k => by rw [hdev]⟩

/-- What `writeValue` did to the attached device: the three brackets leave the latch clear, and the unit of a valid
address written (R140, R187). -/
structure Wrote (s t : State) (a v : Half) : Prop where
  setting : SameSetting s t
  ready : t.ready = true
  wel : t.dev.wel = false
  mem : validAddress s.cfg.org a = true →
    t.dev.mem = memWrite s.cfg.org s.dev.mem (unitOf a) (unitValue s.cfg.org v)

/-- The device through the three brackets of `writeValue`, whatever its latch was. -/
theorem reactAll_writeValue {d : RefDev} (ha : d.attached = true) {a v : Half} {r0 r1 r2 : List Byte}
    (h0 : r0.length = 2) (h1 : r1.length = (writeBytes d.org a v).length) (h2 : r2.length = 2) :
    let u := d.reactAll (bracketEvents (enableBytes d.org) r0 ++ bracketEvents (writeBytes d.org a v) r1 ++
      bracketEvents (disableBytes d.org) r2)
    u.wel = false ∧ (validAddress d.org a = true → u.mem = memWrite d.org d.mem (unitOf a) (unitValue d.org v)) := by
  have he : r0.length = (enableBytes d.org).length := by rw [h0]; cases d.org <;> rfl
  have hd : r2.length = (disableBytes d.org).length := by rw [h2]; cases d.org <;> rfl
  simp only [reactAll_append]
  rw [bracket_enable ha he (command_holding_enable d)]
  set e : RefDev := { d with wel := true, sel := false, tb := enableBytes d.org }
  set w := e.reactAll (bracketEvents (writeBytes d.org a v) r1) with hw
  have haw : w.attached = true := by rw [hw, reactAll_attached]; exact ha
  have how : w.org = d.org := by rw [hw, reactAll_org]
  rw [bracket_disable haw hd (how ▸ command_holding_disable w)]
  refine ⟨rfl, fun hv => ?_⟩
  have hc : (e.holding (writeBytes d.org a v)).command = some (.write (unitOf a)) := by
    rw [writeBytes, command_holding, decodeFrame_writeFrame hv]
  show w.mem = _
  rw [hw, bracket_write (d := e) ha h1 rfl hc (writeData_holding e _ v)]

theorem exec_writeValue_served {s : State} (a v : Half) (hr : s.ready = true) (hs : s.served) {n : Nat}
    (h : s.answersNext (writeExchanges s.cfg.org + n) = true) :
    ∃ t, exec (.writeValue a v) s = .next t ∧ Wrote s t a v ∧ t.answersNext n = true := by
  obtain ⟨ha, ho⟩ := hs
  obtain ⟨t, r0, r1, r2, hrun, h0, h1, h2, hran, -, -, -, -, -, -, hdev, hn⟩ :=
    run_writeValue (latchValue v (latchAddr a s)) h
  have hran' : RanToEnd s t _ := hran.of_latchValue.of_latchAddr
  simp only [latchValue_dev, latchAddr_dev, latchValue_cfg, latchAddr_cfg, latchValue_addr, latchAddr_addr,
    latchValue_value, ← ho] at h1 hdev
  obtain ⟨hwel, hmem⟩ := reactAll_writeValue ha h0 h1 h2
  rw [← hdev, ho] at hmem
  exact ⟨t, by rw [← hrun]; exact issue_ready hr, ⟨hran'.setting, hran'.ready hr, by rw [hdev]; exact hwel, hmem⟩, hn⟩

/-- Settles O40: the enable and the disable bracket set and clear the latch, and a disable bracket ends
`writeValue`. -/
theorem latchFollowsTheBrackets : Obligations.LatchFollowsTheBrackets := by
  intro s a v hr hs
  have ⟨ha, ho⟩ := hs
  refine ⟨fun h => ?_, fun h => ?_, fun h => ?_⟩
  · obtain ⟨t, hexec, -, rx, hl, hdev⟩ := exec_enableWrite hr h
    rw [← ho] at hl hdev
    exact ⟨t, hexec, by rw [hdev, bracket_enable ha hl (command_holding_enable s.dev)]⟩
  · obtain ⟨t, hexec, -, rx, hl, hdev⟩ := exec_disableWrite hr h
    rw [← ho] at hl hdev
    exact ⟨t, hexec, by rw [hdev, bracket_disable ha hl (command_holding_disable s.dev)]⟩
  · obtain ⟨t, hexec, hwrote, -⟩ := exec_writeValue_served a v hr hs (n := 0) h
    exact ⟨t, hexec, hwrote.wel⟩

/-- The state that a `writeValue` leaves is served like the one before. -/
theorem SameSetting.served {s t : State} (h : SameSetting s t) (hs : s.served) : t.served :=
  ⟨h.attached.trans hs.1, by rw [h.devOrg, h.cfg, hs.2]⟩

/-- Settles O45: the write stores the value in the unit, and the read returns the unit and keeps array and latch;
the clause without the enable bracket is O43's. -/
theorem roundTrip : Obligations.RoundTrip := by
  intro s a v hr hs hm _ hv hfits h
  have h4 : s.answersNext 4 = true := answersNext_mono h (by omega)
  refine ⟨?_, fun hw a10 ho => ?_, fun hw a11 ho => ?_⟩
  · obtain ⟨t, hwrite, hwrote, hnext⟩ := exec_writeValue_served a v hr hs h
    have hcfg : t.cfg = s.cfg := hwrote.setting.cfg
    obtain ⟨u, hread, hres, hdev⟩ :=
      exec_readValue_valid hwrote.ready (hwrote.setting.served hs) (by rwa [hcfg]) hnext
    have hunit : memRead s.cfg.org t.dev.mem (unitOf a) = v := by
      rw [hwrote.mem hv, memRead_memWrite _ hm, hfits, hfits]
    refine ⟨t, u, hwrite, hread, ?_, ?_, ?_⟩
    · rw [hres, hcfg, hunit]
    · rw [hdev]; exact hunit
    · rw [hdev]; exact hwrote.wel
  · obtain ⟨-, -, -, hword, -⟩ := protectedArrayIsKept s a a10 0 hr hw h4
    obtain ⟨t, hexec, -, hmem⟩ := hword ho
    exact ⟨t, hexec, hmem⟩
  · obtain ⟨-, -, -, -, hbyte⟩ := protectedArrayIsKept s a 0 a11 hr hw h4
    obtain ⟨t, hexec, -, hmem⟩ := hbyte ho
    exact ⟨t, hexec, hmem⟩

end Sys2Proof.Machine

/-! ## Encoding: the fields of a frame, the rows of the opcode table, and the two frame decoders

Proofs about spec/30_encoding.md. The order: the fields of a frame, the rows as conditions on the fields, the two
decoders as what the row of a frame says, the encoder, the frames that the block sends, words and codes, and the frame
rows as instructions. -/

namespace Sys2Proof.Machine

/-! ### The fields of a frame -/

/-- The bits of a frame above its unit address, as a number: bits 15:10 in `WORD16`, 15:11 in `BYTE8` (R95). -/
def opField (o : Org) (f : Half) : Nat := f.toNat / Config.units o

/-- The two bits that tell the fixed frames apart: bits 9:8 in `WORD16`, 10:9 in `BYTE8` (R95). -/
def subField (o : Org) (f : Half) : Nat := f.toNat / (Config.units o / 4) % 4

/-- The unit address that a bus observer takes from a frame (R96). -/
def unitField : Org → Half → BitVec 11
  | .word16, f => (f.extractLsb' 0 10).setWidth 11
  | .byte8, f => f.extractLsb' 0 11

/-- What the bits above the unit address hold in a frame of this kind (R95). -/
def FrameKind.op : FrameKind → Nat
  | .enable => 4
  | .disable => 4
  | .eraseAll => 4
  | .write => 5
  | .read => 6
  | .eraseOne => 7

/-- What tells a fixed frame of this kind from the other fixed ones (R95). -/
def FrameKind.sub : FrameKind → Nat
  | .enable => 3
  | .disable => 0
  | .eraseAll => 1
  | .write => 0
  | .read => 0
  | .eraseOne => 0

/-- The fields of the frame are those of this kind (R95). -/
structure HasFields (o : Org) (k : FrameKind) (f : Half) : Prop where
  op : opField o f = k.op
  sub : addressed k = false → subField o f = k.sub

theorem units_eq_two_pow (o : Org) : Config.units o = 2 ^ Config.addrWidth o := by cases o <;> rfl

theorem opField_word16 (f : Half) : opField .word16 f = (f.extractLsb' 10 6).toNat := by
  simp only [opField, Config.units, BitVec.extractLsb'_toNat, Nat.shiftRight_eq_div_pow]
  omega

theorem opField_byte8 (f : Half) : opField .byte8 f = (f.extractLsb' 11 5).toNat := by
  simp only [opField, Config.units, BitVec.extractLsb'_toNat, Nat.shiftRight_eq_div_pow]
  omega

theorem subField_word16 (f : Half) : subField .word16 f = (f.extractLsb' 8 2).toNat := by
  simp [subField, Config.units, BitVec.extractLsb'_toNat, Nat.shiftRight_eq_div_pow]

theorem subField_byte8 (f : Half) : subField .byte8 f = (f.extractLsb' 9 2).toNat := by
  simp [subField, Config.units, BitVec.extractLsb'_toNat, Nat.shiftRight_eq_div_pow]

theorem opField_or (o : Org) (f g : Half) : opField o (f ||| g) = opField o f ||| opField o g := by
  simp only [opField, units_eq_two_pow, BitVec.toNat_or, Nat.or_div_two_pow]

theorem testBit_opField (o : Org) (a : Half) (j : Nat) :
    (opField o a).testBit j = a.getLsbD (Config.addrWidth o + j) := by
  rw [opField, units_eq_two_pow, Nat.testBit_div_two_pow, Nat.add_comm, BitVec.testBit_toNat]

theorem opField_eq_zero_of_valid {o : Org} {a : Half} (h : validAddress o a = true) : opField o a = 0 :=
  Nat.div_eq_of_lt (decide_eq_true_iff.1 h)

/-- The test of a row: a mask that keeps the bits from `w` upward compares what stands above bit `w`. -/
theorem and_highMask_eq_iff {w : Nat} {f p : Half} (hp : p.toNat % 2 ^ w = 0) :
    f &&& BitVec.allOnes 16 <<< w = p ↔ f.toNat / 2 ^ w = p.toNat / 2 ^ w := by
  have hkept : (f &&& BitVec.allOnes 16 <<< w).toNat = 2 ^ w * (f.toNat / 2 ^ w) := by
    have hle : f.toNat / 2 ^ w * 2 ^ w < 2 ^ 16 := Nat.lt_of_le_of_lt (Nat.div_mul_le_self ..) f.isLt
    rw [← BitVec.shiftLeft_ushiftRight, BitVec.toNat_shiftLeft, BitVec.toNat_ushiftRight,
      Nat.shiftRight_eq_div_pow, Nat.shiftLeft_eq, Nat.mod_eq_of_lt hle, Nat.mul_comm]
  have hpattern : p.toNat = 2 ^ w * (p.toNat / 2 ^ w) := (Nat.mul_div_cancel' (Nat.dvd_of_mod_eq_zero hp)).symm
  rw [← BitVec.toNat_inj, hkept]
  constructor
  · intro h
    rw [← h, Nat.mul_div_cancel_left _ (Nat.two_pow_pos w)]
  · intro h
    rw [h, ← hpattern]

/-! ### The rows of the opcode table -/

/-- The mask of a row: it keeps the bits above the address, or above the bits that tell nothing (R95, R99). -/
def rowMask (o : Org) (k : FrameKind) : Half :=
  match o, addressed k with
  | .word16, true => 0xFC00
  | .word16, false => 0xFF00
  | .byte8, true => 0xF800
  | .byte8, false => 0xFE00

/-- The number of bits that the mask of a row leaves out: the address, or the bits that tell nothing (R85). -/
def rowWidth (o : Org) (k : FrameKind) : Nat :=
  if addressed k then Config.addrWidth o else Config.addrWidth o - 2

theorem rowMask_eq (o : Org) (k : FrameKind) : rowMask o k = BitVec.allOnes 16 <<< rowWidth o k := by
  cases o <;> cases k <;> rfl

/-- The row of an organization and a kind. -/
def rowOf (o : Org) (k : FrameKind) : FrameRow := ⟨o, k, shiftOrg o (baseOpcode k), rowMask o k⟩

theorem rowOf_mem (o : Org) (k : FrameKind) : rowOf o k ∈ frameRows := by
  cases o <;> cases k <;> decide

theorem eq_rowOf_of_mem : ∀ r ∈ frameRows, r = rowOf r.org r.kind := by decide

theorem mem_frameRows_iff {r : FrameRow} : r ∈ frameRows ↔ ∃ o k, r = rowOf o k :=
  ⟨fun h => ⟨_, _, eq_rowOf_of_mem r h⟩, by rintro ⟨o, k, rfl⟩; exact rowOf_mem o k⟩

/-- Every base opcode is the fields of its kind with zeros below (R86, R88). -/
theorem shiftOrg_baseOpcode_toNat (o : Org) (k : FrameKind) :
    (shiftOrg o (baseOpcode k)).toNat =
      2 ^ rowWidth o k * if addressed k then k.op else 4 * k.op + k.sub := by
  cases o <;> cases k <;> rfl

theorem op_of_fixed {k : FrameKind} (hk : addressed k = false) : k.op = 4 ∧ k.sub < 4 := by
  revert hk
  cases k <;> decide

/-- The bits of a frame above the don't-care bits of a fixed row are its two fields (R85). -/
theorem div_rowWidth_of_fixed {o : Org} {k : FrameKind} (hk : addressed k = false) (f : Half) :
    f.toNat / 2 ^ rowWidth o k = 4 * opField o f + subField o f := by
  simp only [rowWidth, hk, opField, subField, Bool.false_eq_true, if_false]
  cases o <;> simp only [Config.addrWidth, Config.units] <;> omega

theorem subField_lt (o : Org) (f : Half) : subField o f < 4 := Nat.mod_lt _ (by decide)

/-- The `match` and `mask` columns of a row say what the fields of its frames are (R95). -/
theorem accepts_rowOf_iff {o : Org} {k : FrameKind} {f : Half} : (rowOf o k).accepts f ↔ HasFields o k f := by
  have hrow : (rowOf o k).accepts f ↔
      f.toNat / 2 ^ rowWidth o k = if addressed k then k.op else 4 * k.op + k.sub := by
    have hbase := shiftOrg_baseOpcode_toNat o k
    show f &&& rowMask o k = shiftOrg o (baseOpcode k) ↔ _
    rw [rowMask_eq, and_highMask_eq_iff (by rw [hbase, Nat.mul_mod_right]), hbase,
      Nat.mul_div_cancel_left _ (Nat.two_pow_pos _)]
  rw [hrow]
  cases hk : addressed k with
  | true =>
    have hop : f.toNat / 2 ^ rowWidth o k = opField o f := by rw [rowWidth, if_pos hk, opField, units_eq_two_pow]
    simp only [hop, if_true]
    exact ⟨fun h => ⟨h, by simp [hk]⟩, HasFields.op⟩
  | false =>
    have hsub := subField_lt o f
    obtain ⟨-, hlt⟩ := op_of_fixed hk
    rw [div_rowWidth_of_fixed hk]
    simp only [Bool.false_eq_true, if_false]
    exact ⟨fun h => ⟨by omega, fun _ => by omega⟩, fun h => by rw [h.op, h.sub hk]⟩

/-- Two rows whose patterns differ in a bit that both masks keep accept no frame in common. -/
theorem not_accepts_both {r q : FrameRow} (h : r.pattern &&& q.mask ≠ q.pattern &&& r.mask) (f : Half) :
    ¬ (r.accepts f ∧ q.accepts f) := by
  rintro ⟨hr, hq⟩
  refine h ?_
  rw [← hr, ← hq, BitVec.and_assoc, BitVec.and_assoc, BitVec.and_comm r.mask]

theorem frameRows_pairwise : frameRows.Pairwise fun r q => ∀ f : Half, ¬ (r.accepts f ∧ q.accepts f) := by
  have hdiffer : frameRows.Pairwise fun r q => r.pattern &&& q.mask ≠ q.pattern &&& r.mask := by decide
  exact hdiffer.imp not_accepts_both

/-- A frame matches at most one row (R95). -/
theorem accepts_unique {r q : FrameRow} (hr : r ∈ frameRows) (hq : q ∈ frameRows) {f : Half}
    (hrf : r.accepts f) (hqf : q.accepts f) : r = q := by
  by_contra hne
  have : Std.Symm fun r q : FrameRow => ∀ f : Half, ¬ (r.accepts f ∧ q.accepts f) :=
    ⟨fun _ _ h f hf => h f hf.symm⟩
  exact frameRows_pairwise.forall hr hq hne f ⟨hrf, hqf⟩

/-! ### The two decoders -/

/-- The instruction that a row makes of a frame (R99). -/
def rowInstr (o : Org) (k : FrameKind) (f : Half) : Instr :=
  match o, k with
  | .word16, .enable => .enableWriteW (f.extractLsb' 0 8)
  | .byte8, .enable => .enableWriteB (f.extractLsb' 0 9)
  | .word16, .disable => .disableWriteW (f.extractLsb' 0 8)
  | .byte8, .disable => .disableWriteB (f.extractLsb' 0 9)
  | .word16, .eraseAll => .eraseAllW (f.extractLsb' 0 8)
  | .byte8, .eraseAll => .eraseAllB (f.extractLsb' 0 9)
  | .word16, .write => .writeW (f.extractLsb' 0 10)
  | .byte8, .write => .writeB (f.extractLsb' 0 11)
  | .word16, .read => .readW (f.extractLsb' 0 10)
  | .byte8, .read => .readB (f.extractLsb' 0 11)
  | .word16, .eraseOne => .eraseOneW (f.extractLsb' 0 10)
  | .byte8, .eraseOne => .eraseOneB (f.extractLsb' 0 11)

/-- The command that a frame of this kind is to a bus observer of the organization (R96). -/
def commandOf (o : Org) (k : FrameKind) (f : Half) : DeviceCommand :=
  match k with
  | .enable => .enable
  | .disable => .disable
  | .eraseAll => .eraseAll
  | .write => .write (unitField o f)
  | .read => .read (unitField o f)
  | .eraseOne => .eraseOne (unitField o f)

@[simp] theorem deviceKind_commandOf (o : Org) (k : FrameKind) (f : Half) :
    deviceKind (commandOf o k f) = some k := by cases k <;> rfl

@[simp] theorem rowCommand_rowInstr (o : Org) (k : FrameKind) (f : Half) :
    rowCommand (rowInstr o k f) = some (o, commandOf o k f) := by cases o <;> cases k <;> rfl

/-- Trying rows in order: the first that accepts the frame gives the instruction. -/
def scanRows (f : Half) : List FrameRow → Except DecodeError Instr
  | [] => .error .unknownFrame
  | r :: rest => if f &&& r.mask = r.pattern then .ok (rowInstr r.org r.kind f) else scanRows f rest

theorem decodeFrameWord_eq_scanRows (f : Half) : decodeFrameWord f = scanRows f frameRows := rfl

/-- A scan answers by a row that accepts the frame, or refuses because none does. -/
theorem scanRows_cases (f : Half) (l : List FrameRow) :
    (∃ r ∈ l, r.accepts f ∧ scanRows f l = .ok (rowInstr r.org r.kind f)) ∨
    (∀ r ∈ l, ¬ r.accepts f) ∧ scanRows f l = .error .unknownFrame := by
  induction l with
  | nil => exact .inr ⟨by simp, rfl⟩
  | cons r rest ih =>
    by_cases h : f &&& r.mask = r.pattern
    · exact .inl ⟨r, by simp, h, if_pos h⟩
    · rw [show scanRows f (r :: rest) = scanRows f rest from if_neg h]
      rcases ih with ⟨q, hq, hacc, heq⟩ | ⟨hnone, heq⟩
      · exact .inl ⟨q, List.mem_cons_of_mem r hq, hacc, heq⟩
      · exact .inr ⟨List.forall_mem_cons.2 ⟨h, hnone⟩, heq⟩

/-- Every frame is of one row, which gives its instruction, or of none and refused (R95, R98). -/
theorem decodeFrameWord_cases (f : Half) :
    (∃ o k, (rowOf o k).accepts f ∧ decodeFrameWord f = .ok (rowInstr o k f)) ∨
    (∀ r ∈ frameRows, ¬ r.accepts f) ∧ decodeFrameWord f = .error .unknownFrame := by
  rw [decodeFrameWord_eq_scanRows]
  refine (scanRows_cases f frameRows).imp_left ?_
  rintro ⟨r, hr, hacc, heq⟩
  obtain ⟨o, k, rfl⟩ := mem_frameRows_iff.1 hr
  exact ⟨o, k, hacc, heq⟩

theorem decodeFrameWord_of_accepts {o : Org} {k : FrameKind} {f : Half} (h : (rowOf o k).accepts f) :
    decodeFrameWord f = .ok (rowInstr o k f) := by
  rcases decodeFrameWord_cases f with ⟨o', k', h', heq⟩ | ⟨hnone, -⟩
  · cases accepts_unique (rowOf_mem o k) (rowOf_mem o' k') h h'
    exact heq
  · exact absurd h (hnone _ (rowOf_mem o k))

theorem decodeFrameWord_of_hasFields {o : Org} {k : FrameKind} {f : Half} (h : HasFields o k f) :
    decodeFrameWord f = .ok (rowInstr o k f) := decodeFrameWord_of_accepts (accepts_rowOf_iff.2 h)

theorem decodeFrameWord_error_iff {f : Half} :
    decodeFrameWord f = .error .unknownFrame ↔ ∀ r ∈ frameRows, ¬ r.accepts f := by
  rcases decodeFrameWord_cases f with ⟨o, k, hacc, heq⟩ | ⟨hnone, heq⟩
  · exact ⟨fun h => (nomatch heq.symm.trans h), fun h => absurd hacc (h _ (rowOf_mem o k))⟩
  · exact ⟨fun _ => hnone, fun _ => heq⟩

/-- The command that the fields of a frame name, in either organization (R96). -/
def readFields (op sub : Nat) (unit : BitVec 11) : DeviceCommand :=
  match op with
  | 5 => .write unit
  | 6 => .read unit
  | 7 => .eraseOne unit
  | 4 =>
    match sub with
    | 3 => .enable
    | 0 => .disable
    | 1 => .eraseAll
    | _ => .unknown
  | _ => .unknown

theorem decodeFrame_eq_readFields (o : Org) (f : Half) :
    decodeFrame o f = readFields (opField o f) (subField o f) (unitField o f) := by
  cases o with
  | word16 => rw [opField_word16, subField_word16]; rfl
  | byte8 => rw [opField_byte8, subField_byte8]; rfl

/-- A frame with the fields of a kind is that command to an observer of the organization. -/
theorem decodeFrame_of_hasFields {o : Org} {k : FrameKind} {f : Half} (h : HasFields o k f) :
    decodeFrame o f = commandOf o k f := by
  cases k with
  | write | read | eraseOne => rw [decodeFrame_eq_readFields, h.op]; rfl
  | enable | disable | eraseAll => rw [decodeFrame_eq_readFields, h.op, h.sub rfl]; rfl

/-- A frame with the fields of no kind is unknown to an observer of the organization. -/
theorem decodeFrame_of_no_fields {o : Org} {f : Half} (h : ∀ k, ¬ HasFields o k f) : decodeFrame o f = .unknown := by
  rw [decodeFrame_eq_readFields]
  unfold readFields
  split
  case h_1 hop => exact absurd ⟨hop, by simp [addressed]⟩ (h .write)
  case h_2 hop => exact absurd ⟨hop, by simp [addressed]⟩ (h .read)
  case h_3 hop => exact absurd ⟨hop, by simp [addressed]⟩ (h .eraseOne)
  case h_4 hop =>
    split
    case h_1 hsub => exact absurd ⟨hop, fun _ => hsub⟩ (h .enable)
    case h_2 hsub => exact absurd ⟨hop, fun _ => hsub⟩ (h .disable)
    case h_3 hsub => exact absurd ⟨hop, fun _ => hsub⟩ (h .eraseAll)
    case h_4 => rfl
  case h_5 => rfl

/-- To a bus observer of either organization a frame is the command of its row or, if it matches no row of that
organization, unknown (R96). -/
theorem decodeFrame_of_accepts {o o' : Org} {k : FrameKind} {f : Half} (h : (rowOf o k).accepts f) :
    decodeFrame o' f = if o' = o then commandOf o k f else .unknown := by
  split
  · next heq =>
    rw [heq]
    exact decodeFrame_of_hasFields (accepts_rowOf_iff.1 h)
  · next hne =>
    refine decodeFrame_of_no_fields fun k' h' => hne ?_
    exact congrArg FrameRow.org (accepts_unique (rowOf_mem o' k') (rowOf_mem o k) (accepts_rowOf_iff.2 h') h)

/-- Settles O5: both decoders say of a frame what its row says. -/
theorem frameDecodersAgree : Obligations.FrameDecodersAgree := by
  intro f
  rcases decodeFrameWord_cases f with ⟨o, k, hacc, heq⟩ | ⟨hnone, heq⟩ <;> rw [heq]
  · exact ⟨o, commandOf o k f, rowCommand_rowInstr o k f, fun _ => decodeFrame_of_accepts hacc⟩
  · exact fun o => decodeFrame_of_no_fields fun k h => hnone _ (rowOf_mem o k) (accepts_rowOf_iff.2 h)

/-- Settles O54: the rows differ pairwise in a bit that both masks keep, and the decoder scans them. -/
theorem frameRowsExcludeEachOther : Obligations.FrameRowsExcludeEachOther := by
  refine ⟨frameRows_pairwise, fun f r hr => ?_, fun f => decodeFrameWord_error_iff⟩
  obtain ⟨o, k, rfl⟩ := mem_frameRows_iff.1 hr
  constructor
  · intro h
    exact ⟨_, _, decodeFrameWord_of_accepts h, rowCommand_rowInstr o k f, deviceKind_commandOf o k f⟩
  · rintro ⟨i, c, hi, hc, hkind⟩
    rcases decodeFrameWord_cases f with ⟨o', k', hacc, heq⟩ | ⟨-, heq⟩
    · obtain rfl : rowInstr o' k' f = i := Except.ok.inj (heq.symm.trans hi)
      rw [rowCommand_rowInstr] at hc
      cases hc
      rw [deviceKind_commandOf] at hkind
      cases hkind
      exact hacc
    · rw [heq] at hi; cases hi

/-- Settles O55: no row accepts the frame, so the decoder refuses it. -/
theorem unmatchedFrameRefused : Obligations.UnmatchedFrameRefused := by
  intro s f rest hi hnone
  have hd : decode (.frame f) = .error .unknownFrame := decodeFrameWord_error_iff.2 hnone
  simp [step, hi, presented, hd]

theorem decodeFrameWord_word16 {k : FrameKind} {f : Half} (hop : (f.extractLsb' 10 6).toNat = k.op)
    (hsub : addressed k = false → (f.extractLsb' 8 2).toNat = k.sub) :
    decodeFrameWord f = .ok (rowInstr .word16 k f) :=
  decodeFrameWord_of_hasFields ⟨(opField_word16 f).trans hop, fun hk => (subField_word16 f).trans (hsub hk)⟩

theorem decodeFrameWord_byte8 {k : FrameKind} {f : Half} (hop : (f.extractLsb' 11 5).toNat = k.op)
    (hsub : addressed k = false → (f.extractLsb' 9 2).toNat = k.sub) :
    decodeFrameWord f = .ok (rowInstr .byte8 k f) :=
  decodeFrameWord_of_hasFields ⟨(opField_byte8 f).trans hop, fun hk => (subField_byte8 f).trans (hsub hk)⟩

/-- A fixed frame is the shifted constant, whatever the address latch holds (R87). -/
theorem frameOf_fixed {k : FrameKind} (hk : addressed k = false) (o : Org) (a : Half) :
    frameOf k o a = shiftOrg o (baseOpcode k) := by simp [frameOf, hk]

/-- Settles O6: each clause is a row of the table, given by its fields. -/
theorem opcodeMap : Obligations.OpcodeMap := by
  refine ⟨fun f => ⟨fun h => ?_, fun h => ?_, fun h => ?_,
      fun h => ⟨fun hs => ?_, fun hs => ?_, fun hs => ?_⟩,
      fun h => ?_, fun h => ?_, fun h => ?_,
      fun h => ⟨fun hs => ?_, fun hs => ?_, fun hs => ?_⟩⟩,
    fun k a hk => ?_⟩
  · exact decodeFrameWord_word16 (k := .write) (congrArg BitVec.toNat h) nofun
  · exact decodeFrameWord_word16 (k := .read) (congrArg BitVec.toNat h) nofun
  · exact decodeFrameWord_word16 (k := .eraseOne) (congrArg BitVec.toNat h) nofun
  · exact decodeFrameWord_word16 (k := .enable) (congrArg BitVec.toNat h) fun _ => congrArg BitVec.toNat hs
  · exact decodeFrameWord_word16 (k := .disable) (congrArg BitVec.toNat h) fun _ => congrArg BitVec.toNat hs
  · exact decodeFrameWord_word16 (k := .eraseAll) (congrArg BitVec.toNat h) fun _ => congrArg BitVec.toNat hs
  · exact decodeFrameWord_byte8 (k := .write) (congrArg BitVec.toNat h) nofun
  · exact decodeFrameWord_byte8 (k := .read) (congrArg BitVec.toNat h) nofun
  · exact decodeFrameWord_byte8 (k := .eraseOne) (congrArg BitVec.toNat h) nofun
  · exact decodeFrameWord_byte8 (k := .enable) (congrArg BitVec.toNat h) fun _ => congrArg BitVec.toNat hs
  · exact decodeFrameWord_byte8 (k := .disable) (congrArg BitVec.toNat h) fun _ => congrArg BitVec.toNat hs
  · exact decodeFrameWord_byte8 (k := .eraseAll) (congrArg BitVec.toNat h) fun _ => congrArg BitVec.toNat hs
  · rw [frameOf_fixed hk, frameOf_fixed hk]
    cases k with
    | enable | disable | eraseAll => exact ⟨rfl, rfl⟩
    | write | read | eraseOne => cases hk

/-! ### Encoding an instruction and decoding it again -/

/-- The table bits of an instruction are its row's pattern with the operand in the free bits (R85, R99). -/
theorem tableBits_encode {i : Instr} (h : Laws.InPattern.Statement i) :
    Laws.tableBits (encode i) = (Laws.tableRow i).1 ||| Laws.tableField i := by
  obtain ⟨hfixed, hfree⟩ := h
  rw [← hfixed, ← hfree, ← BitVec.and_or_distrib_left, BitVec.or_not_self, BitVec.and_allOnes]

/-- The encoding of a frame row matches the row and carries the operand below; the host commands and the reset event
have a code each. Don't-care bits, too, come back as they were sent, so this needs no well-formedness. -/
theorem decode_encode (i : Instr) : decode (encode i) = .ok i := by
  have row (o : Org) (k : FrameKind) {f : Half} (hf : encode i = .frame f) (hacc : (rowOf o k).accepts f)
      (hi : rowInstr o k f = i) : decode (encode i) = .ok i := by
    rw [hf]
    exact (decodeFrameWord_of_accepts hacc).trans (congrArg Except.ok hi)
  cases i with
  | configureBus | enableWrite | disableWrite | eraseAll => rfl
  | writeValue address value => rfl
  | readValue address => rfl
  | eraseOne address => rfl
  | construct line org => cases org <;> rfl
  | enableWriteW x8 =>
    exact row .word16 .enable rfl (Laws.InPattern.enableWriteW x8).1 (congrArg _ BitVec.extractLsb'_append_eq_right)
  | enableWriteB x9 =>
    exact row .byte8 .enable rfl (Laws.InPattern.enableWriteB x9).1 (congrArg _ BitVec.extractLsb'_append_eq_right)
  | disableWriteW x8 =>
    exact row .word16 .disable rfl (Laws.InPattern.disableWriteW x8).1 (congrArg _ BitVec.extractLsb'_append_eq_right)
  | disableWriteB x9 =>
    exact row .byte8 .disable rfl (Laws.InPattern.disableWriteB x9).1 (congrArg _ BitVec.extractLsb'_append_eq_right)
  | eraseAllW x8 =>
    exact row .word16 .eraseAll rfl (Laws.InPattern.eraseAllW x8).1 (congrArg _ BitVec.extractLsb'_append_eq_right)
  | eraseAllB x9 =>
    exact row .byte8 .eraseAll rfl (Laws.InPattern.eraseAllB x9).1 (congrArg _ BitVec.extractLsb'_append_eq_right)
  | writeW a10 =>
    exact row .word16 .write rfl (Laws.InPattern.writeW a10).1 (congrArg _ BitVec.extractLsb'_append_eq_right)
  | writeB a11 =>
    exact row .byte8 .write rfl (Laws.InPattern.writeB a11).1 (congrArg _ BitVec.extractLsb'_append_eq_right)
  | readW a10 =>
    exact row .word16 .read rfl (Laws.InPattern.readW a10).1 (congrArg _ BitVec.extractLsb'_append_eq_right)
  | readB a11 =>
    exact row .byte8 .read rfl (Laws.InPattern.readB a11).1 (congrArg _ BitVec.extractLsb'_append_eq_right)
  | eraseOneW a10 =>
    exact row .word16 .eraseOne rfl (Laws.InPattern.eraseOneW a10).1 (congrArg _ BitVec.extractLsb'_append_eq_right)
  | eraseOneB a11 =>
    exact row .byte8 .eraseOne rfl (Laws.InPattern.eraseOneB a11).1 (congrArg _ BitVec.extractLsb'_append_eq_right)

/-- Settles O1. -/
theorem decodeEncode : Obligations.DecodeEncode := fun i _ => decode_encode i

/-- Settles O3: the pattern of a row is its shifted base opcode, and OR lays the operand into its free bits. -/
theorem formatsAreMergedFrames : Obligations.FormatsAreMergedFrames :=
  ⟨fun a => ⟨congrArg Code.frame (tableBits_encode (Laws.InPattern.writeW a)),
    congrArg Code.frame (tableBits_encode (Laws.InPattern.readW a)),
    congrArg Code.frame (tableBits_encode (Laws.InPattern.eraseOneW a))⟩,
   fun a => ⟨congrArg Code.frame (tableBits_encode (Laws.InPattern.writeB a)),
    congrArg Code.frame (tableBits_encode (Laws.InPattern.readB a)),
    congrArg Code.frame (tableBits_encode (Laws.InPattern.eraseOneB a))⟩,
   fun _ => ⟨rfl, rfl, rfl, rfl, rfl, rfl⟩⟩

/-! ### The frames that the block sends -/

theorem opField_shiftOrg_baseOpcode (o : Org) (k : FrameKind) : opField o (shiftOrg o (baseOpcode k)) = k.op := by
  cases o <;> cases k <;> rfl

/-- The base opcode of an addressed frame has nothing in the bits of the unit address (R94). -/
theorem shiftOrg_baseOpcode_mod {k : FrameKind} (hk : addressed k = true) (o : Org) :
    (shiftOrg o (baseOpcode k)).toNat % Config.units o = 0 := by
  rw [shiftOrg_baseOpcode_toNat, rowWidth, if_pos hk, ← units_eq_two_pow, Nat.mul_mod_right]

theorem frameOf_addressed {k : FrameKind} (hk : addressed k = true) (o : Org) (a : Half) :
    frameOf k o a = mergeAddr o (baseOpcode k) a := by simp [frameOf, hk]

/-- All bits of an address take part in an addressed frame: those above the unit fall on the command (R89, R98). -/
theorem opField_mergeAddr (k : FrameKind) (o : Org) (a : Half) :
    opField o (mergeAddr o (baseOpcode k) a) = k.op ||| opField o a := by
  rw [mergeAddr, opField_or, opField_shiftOrg_baseOpcode]

theorem mergeAddr_mod {k : FrameKind} (hk : addressed k = true) (o : Org) (a : Half) :
    (mergeAddr o (baseOpcode k) a).toNat % Config.units o = a.toNat % Config.units o := by
  have hbase := shiftOrg_baseOpcode_mod hk o
  rw [units_eq_two_pow] at hbase ⊢
  rw [mergeAddr, BitVec.toNat_or, Nat.or_mod_two_pow, hbase, Nat.zero_or]

theorem unitField_eq_ofNat (o : Org) (f : Half) : unitField o f = BitVec.ofNat 11 (f.toNat % Config.units o) := by
  apply BitVec.eq_of_toNat_eq
  cases o with
  | word16 => simp [unitField, Config.units]
  | byte8 => simp [unitField, Config.units]

theorem unitField_mergeAddr {k : FrameKind} (hk : addressed k = true) (o : Org) (a : Half) :
    unitField o (mergeAddr o (baseOpcode k) a) = unitField o a := by
  rw [unitField_eq_ofNat, mergeAddr_mod hk, ← unitField_eq_ofNat]

/-- Settles O4: the six commands, with the unit where the frame has one. -/
theorem sentFramesDecode : Obligations.SentFramesDecode := by
  intro org a ha
  refine ⟨decodeFrame_frameOf_enable org a, decodeFrame_frameOf_disable org a, decodeFrame_frameOf_eraseAll org a,
    ?_, ?_, ?_⟩
  · rw [frameOf_write]; exact decodeFrame_writeFrame ha
  · rw [frameOf_read]; exact decodeFrame_readFrame ha
  · rw [frameOf_eraseOne]; exact decodeFrame_eraseOneFrame ha

/-- The frame of a valid address tells its own kind (R96). -/
theorem deviceKind_decodeFrame_frameOf {o : Org} {a : Half} (ha : validAddress o a = true) (k : FrameKind) :
    deviceKind (decodeFrame o (frameOf k o a)) = some k := by
  obtain ⟨henable, hdisable, heraseAll, hwrite, hread, heraseOne⟩ := sentFramesDecode o a ha
  cases k with
  | enable => rw [henable]; rfl
  | disable => rw [hdisable]; rfl
  | eraseAll => rw [heraseAll]; rfl
  | write => rw [hwrite]; rfl
  | read => rw [hread]; rfl
  | eraseOne => rw [heraseOne]; rfl

/-- Numbers share no bit when one is a multiple of `2 ^ w` and the other is below it. -/
theorem and_eq_zero_of_fields {b a : Half} {w : Nat} (hb : b.toNat % 2 ^ w = 0) (ha : a.toNat / 2 ^ w = 0) :
    b &&& a = 0 := by
  apply BitVec.eq_of_toNat_eq
  have hdiv : (b &&& a).toNat / 2 ^ w = 0 := by rw [BitVec.toNat_and, Nat.and_div_two_pow, ha, Nat.and_zero]
  have hmod : (b &&& a).toNat % 2 ^ w = 0 := by rw [BitVec.toNat_and, Nat.and_mod_two_pow, hb, Nat.zero_and]
  have hsplit := Nat.div_add_mod (b &&& a).toNat (2 ^ w)
  rw [hdiv, hmod] at hsplit
  exact hsplit.symm

/-- A valid address shares no bit with the base opcode of an addressed frame (R94). -/
theorem shiftOrg_baseOpcode_and_of_valid {o : Org} {k : FrameKind} {a : Half} (hk : addressed k = true)
    (ha : validAddress o a = true) : shiftOrg o (baseOpcode k) &&& a = 0 := by
  have hbase := shiftOrg_baseOpcode_mod hk o
  have hop := opField_eq_zero_of_valid ha
  rw [units_eq_two_pow] at hbase
  rw [opField, units_eq_two_pow] at hop
  exact and_eq_zero_of_fields hbase hop

/-- A valid address is read back from the low bits of its frame (R94). -/
theorem mergeAddr_mod_of_valid {o : Org} {k : FrameKind} {a : Half} (hk : addressed k = true)
    (ha : validAddress o a = true) : (mergeAddr o (baseOpcode k) a).toNat % Config.units o = a.toNat :=
  (mergeAddr_mod hk o a).trans (Nat.mod_eq_of_lt (decide_eq_true_iff.1 ha))

/-- Frames of valid addresses that are equal are of one kind (R94). -/
theorem kind_eq_of_frameOf_eq {o : Org} {k l : FrameKind} {a b : Half} (ha : validAddress o a = true)
    (hb : validAddress o b = true) (h : frameOf k o a = frameOf l o b) : k = l := by
  have hkind := deviceKind_decodeFrame_frameOf ha k
  rw [h, deviceKind_decodeFrame_frameOf hb l] at hkind
  exact (Option.some.inj hkind).symm

/-- Settles O7: the frame splits at the unit size into the command above and the address below, and tells its own kind.
A fixed frame does not depend on the address operand, so it may be taken at the valid address 0. -/
theorem addressedFramesAreDisjoint : Obligations.AddressedFramesAreDisjoint := by
  refine ⟨fun o k a hk ha => ?_, fun o k l a b hk hl ha hb h => ?_, fun o k l a b hk hl ha h => ?_, rfl, rfl⟩
  · have hdisjoint := shiftOrg_baseOpcode_and_of_valid hk ha
    refine ⟨hdisjoint, (BitVec.add_eq_or_of_and_eq_zero _ _ hdisjoint).symm, mergeAddr_mod_of_valid hk ha, ?_⟩
    show opField o _ = opField o _
    rw [opField_mergeAddr, opField_eq_zero_of_valid ha, Nat.or_zero, opField_shiftOrg_baseOpcode]
  · refine ⟨kind_eq_of_frameOf_eq ha hb h, BitVec.eq_of_toNat_eq ?_⟩
    rw [frameOf_addressed hk, frameOf_addressed hl] at h
    rw [← mergeAddr_mod_of_valid hk ha, h, mergeAddr_mod_of_valid hl hb]
  · have hzero : validAddress o 0 = true := by cases o <;> rfl
    have hfixed : frameOf l o b = frameOf l o 0 := (frameOf_fixed hl o b).trans (frameOf_fixed hl o 0).symm
    rw [kind_eq_of_frameOf_eq ha hzero (h.trans hfixed), hl] at hk
    cases hk

/-! Addresses in range or out of it (R98). -/

/-- An addressed frame is the command that the address's high bits make of its own, with the unit of its low bits. -/
theorem decodeFrame_frameOf_of_op {k l : FrameKind} (hk : addressed k = true) (hl : addressed l = true) {o : Org}
    {a : Half} (h : k.op ||| opField o a = l.op) : decodeFrame o (frameOf k o a) = commandOf o l a := by
  have hfields : HasFields o l (frameOf k o a) :=
    ⟨by rw [frameOf_addressed hk, opField_mergeAddr, h], by simp [hl]⟩
  rw [decodeFrame_of_hasFields hfields, frameOf_addressed hk]
  cases l with
  | write | read | eraseOne => simp only [commandOf, unitField_mergeAddr hk]
  | enable | disable | eraseAll => cases hl

section InRange

variable {o : Org} {a : Half} (h : opField o a < 8)
include h

theorem decodeFrame_frameOf_read : decodeFrame o (frameOf .read o a) =
    if a.getLsbD (Config.addrWidth o) then .eraseOne (unitField o a) else .read (unitField o a) := by
  have bit : ∀ x < 8, 6 ||| x = if x.testBit 0 then 7 else 6 := by decide
  have hop := bit _ h
  rw [testBit_opField, Nat.add_zero] at hop
  split <;> rename_i hbit
  · exact decodeFrame_frameOf_of_op (l := .eraseOne) rfl rfl (hop.trans (if_pos hbit))
  · exact decodeFrame_frameOf_of_op (l := .read) rfl rfl (hop.trans (if_neg hbit))

theorem decodeFrame_frameOf_write : decodeFrame o (frameOf .write o a) =
    if a.getLsbD (Config.addrWidth o + 1) then .eraseOne (unitField o a) else .write (unitField o a) := by
  have bit : ∀ x < 8, 5 ||| x = if x.testBit 1 then 7 else 5 := by decide
  have hop := bit _ h
  rw [testBit_opField] at hop
  split <;> rename_i hbit
  · exact decodeFrame_frameOf_of_op (l := .eraseOne) rfl rfl (hop.trans (if_pos hbit))
  · exact decodeFrame_frameOf_of_op (l := .write) rfl rfl (hop.trans (if_neg hbit))

theorem decodeFrame_frameOf_eraseOne :
    decodeFrame o (frameOf .eraseOne o a) = .eraseOne (unitField o a) := by
  have bits : ∀ x < 8, 7 ||| x = 7 := by decide
  exact decodeFrame_frameOf_of_op (l := .eraseOne) rfl rfl (bits _ h)

end InRange

theorem FrameKind.op_lt (k : FrameKind) : k.op < 8 := by cases k <;> decide

/-- An address with a bit above the command's own three makes a frame that is no command (R98). -/
theorem decodeFrame_frameOf_of_le {o : Org} {a : Half} (h : 8 ≤ opField o a) {k : FrameKind}
    (hk : addressed k = true) : decodeFrame o (frameOf k o a) = .unknown := by
  refine decodeFrame_of_no_fields fun l hl => ?_
  have hop := hl.op
  rw [frameOf_addressed hk, opField_mergeAddr] at hop
  have hge : 8 ≤ l.op := hop ▸ h.trans Nat.right_le_or
  exact absurd l.op_lt (Nat.not_lt.2 hge)

theorem opField_word16_lt_iff {a : Half} : a &&& 0xE000 = 0 ↔ opField .word16 a < 8 := by
  refine (and_highMask_eq_iff (w := 13) (p := 0) rfl).trans ?_
  simp only [opField, Config.units, BitVec.ofNat_eq_ofNat, BitVec.toNat_ofNat]
  omega

theorem opField_byte8_lt_iff {a : Half} : a &&& 0xC000 = 0 ↔ opField .byte8 a < 8 := by
  refine (and_highMask_eq_iff (w := 14) (p := 0) rfl).trans ?_
  simp only [opField, Config.units, BitVec.ofNat_eq_ofNat, BitVec.toNat_ofNat]
  omega

/-- Settles O9: the address bits above the unit are ORed into the command, by R98's table in either organization. -/
theorem outOfRangeAddressesAlias : Obligations.OutOfRangeAddressesAlias := by
  refine ⟨fun a ha => ?_, fun a k ha hk => ?_, fun a ha => ?_, fun a k ha hk => ?_⟩
  · have h := opField_word16_lt_iff.1 ha
    exact ⟨decodeFrame_frameOf_read h, decodeFrame_frameOf_write h, decodeFrame_frameOf_eraseOne h⟩
  · exact decodeFrame_frameOf_of_le (Nat.not_lt.1 fun h => ha (opField_word16_lt_iff.2 h)) hk
  · have h := opField_byte8_lt_iff.1 ha
    exact ⟨decodeFrame_frameOf_read h, decodeFrame_frameOf_write h, decodeFrame_frameOf_eraseOne h⟩
  · exact decodeFrame_frameOf_of_le (Nat.not_lt.1 fun h => ha (opField_byte8_lt_iff.2 h)) hk

/-! ### Words and codes -/

/-- Settles O2: the words fall under a host code or a row; `0x1200` under none. -/
theorem wordsDecode : Obligations.WordsDecode := ⟨rfl, rfl, rfl, rfl, rfl, rfl, rfl, rfl⟩

/-- Settles O8: the shift is `BYTE_SHIFT`'s, and no base opcode has its top bit set. -/
theorem shiftedConstants : Obligations.ShiftedConstants :=
  ⟨fun _ => ⟨rfl, rfl⟩, fun k => by cases k <;> decide, rfl⟩

/-- Every code but the reserved one is a host command, whatever its operands (R97). -/
theorem decodeHost_defined {op : BitVec 3} (hop : op ≠ 7) (addr value : Half) :
    ∃ i, decodeHost op addr value = .ok i ∧ i ∈ hostCommands addr value := by
  have codes : ∀ op : BitVec 3, op ≠ 7 →
      op = 0 ∨ op = 1 ∨ op = 2 ∨ op = 3 ∨ op = 4 ∨ op = 5 ∨ op = 6 := by decide
  rcases codes op hop with rfl | rfl | rfl | rfl | rfl | rfl | rfl
  all_goals exact ⟨_, rfl, by simp [hostCommands]⟩

/-- Settles O10: code 7 decodes to the refusal, which takes only the presentation away. -/
theorem reservedCommandRefused : Obligations.ReservedCommandRefused := by
  refine ⟨fun s addr value rest hi => ?_, fun op addr value hop => decodeHost_defined hop addr value⟩
  simp only [step, hi]
  rfl

theorem placed_inputs (c : Code) (s : State) : (placed c s).inputs = .present c :: s.inputs := by cases c <;> rfl

theorem decodeTableWord_eq_some_iff {nbits w : Nat} {i : Instr} :
    decodeTableWord nbits w = some i ↔ decode (codeOfTableWord nbits w) = .ok i := by
  unfold decodeTableWord
  cases decode (codeOfTableWord nbits w) <;> simp

/-- Settles O12: the placed word is the next presentation, and a step runs what is presented (O11). -/
theorem placedWordRuns : Obligations.PlacedWordRuns := by
  intro s nbits w i hi
  exact stepRunsTheDecodedInstruction _ _ _ i (placed_inputs _ s) (decodeTableWord_eq_some_iff.1 hi)

/-! ### The frame rows as instructions -/

/-- A frame row is the bracket of an operation, issued under the row's organization. -/
theorem exec_frameRow {i : Instr} {o : Org} {c : DeviceCommand} (h : rowCommand i = some (o, c)) (s : State) :
    ∃ op l, exec i s = issueFrame o op l s := by
  cases i <;> cases h <;> exact ⟨_, _, rfl⟩

/-- Settles O24: what `issueFrame` does in a block of the other organization and in one that is not ready. -/
theorem frameRowsElsewhere : Obligations.FrameRowsElsewhere := by
  intro s i o c hi
  obtain ⟨op, l, hexec⟩ := exec_frameRow hi s
  rw [hexec]
  exact ⟨fun hr ho => issueFrame_reserved hr ho, fun hr => issueFrame_refused hr⟩

/-- A bracket changes no byte of the array but those its frame stores to (R70). -/
theorem Bracketed.sameArrayOutside {op : SeqOp} {l t : State} {f : Half} {data rx : List Byte}
    (h : Bracketed (takeCommand op l) t f (frameBytes f ++ data) rx) : SameArrayOutside f l (endOperation t) := by
  intro k hk
  have hdev : (endOperation t).dev = l.dev.reactAll (bracketEvents (frameBytes f ++ data) rx) := h.dev
  rw [hdev]
  exact bracket_read_other h.len hk

/-! The outcome of an instruction, command or frame row, that runs an operation to its end. -/

/-- An operation whose steps are the bracket of a fixed frame (R130 to R132). -/
theorem fixedFrameOutcome_run {op : SeqOp} {kind : FrameKind} {bytes : Org → List Byte}
    (hop : ∀ o, stepList op o = frameBracket kind) (hbytes : ∀ o a, frameBytes (frameOf kind o a) = bytes o)
    {s : State} (h : s.answersNext 2 = true) {out : Host.Outcome State Fault Refusal}
    (hout : out = .next (runOperation (takeCommand op s))) : FixedFrameOutcome out bytes s := by
  obtain ⟨t, rx, hb, -, hrun⟩ := run_frameBracket (n := 0) op kind s hop h
  have hran := hb.ranToEnd
  have hframe : (endOperation t).frame = frameOf kind s.cfg.org s.addr := hb.frame
  have harray := Bracketed.sameArrayOutside (data := []) (by simpa using hb)
  rw [hbytes] at hran
  exact ⟨_, rx, hout.trans (congrArg _ hrun), hb.len, hran, by rw [hframe, hbytes],
    ⟨hb.addr, hb.value, hb.rxhi, hb.rxlo, hb.result⟩, hframe ▸ harray⟩

/-- The operation `eraseOne`, with the address latched (R144). -/
theorem eraseOneOutcome_run {s : State} (a : Half) (h : s.answersNext 2 = true)
    {out : Host.Outcome State Fault Refusal}
    (hout : out = .next (runOperation (takeCommand .eraseOne (latchAddr a s)))) :
    EraseOneOutcome out a s := by
  obtain ⟨t, rx, hb, -, hrun⟩ := run_frameBracket (n := 0) .eraseOne .eraseOne (latchAddr a s) (fun _ => rfl) h
  have hframe : (endOperation t).frame = eraseOneFrame s.cfg.org a := hb.frame.trans (frameOf_eraseOne _ _)
  rw [frameOf_eraseOne] at hb
  have harray := Bracketed.sameArrayOutside (data := []) (by simpa using hb)
  exact ⟨_, rx, hout.trans (congrArg _ hrun), hb.len, hb.ranToEnd.of_latchAddr, hframe, hb.addr, hb.value,
    hb.rxhi, hb.rxlo, hb.result, hframe ▸ harray⟩

/-- The write bracket by itself, with the address latched (R91, R140). -/
theorem writeBracketOutcome_run {s : State} (a : Half) (h : s.answersNext (writeTx s.cfg.org).length = true)
    {out : Host.Outcome State Fault Refusal}
    (hout : out = .next (runOperation (takeCommand .writeBracket (latchAddr a s)))) :
    WriteBracketOutcome out a s := by
  obtain ⟨t, rx, hb, -, hrun⟩ := run_writeBracket (n := 0) (latchAddr a s) h
  have hframe : (endOperation t).frame = writeFrame s.cfg.org a := hb.frame
  exact ⟨_, rx, hout.trans (congrArg _ hrun), hb.len, hb.ranToEnd.of_latchAddr, hframe, hb.addr, hb.value,
    hb.rxhi, hb.rxlo, hb.result, hframe ▸ hb.sameArrayOutside⟩

/-- The operation `readValue`, with the address latched (R142). -/
theorem readOutcome_run {s : State} (a : Half) (h : s.answersNext 4 = true)
    {out : Host.Outcome State Fault Refusal}
    (hout : out = .next (runOperation (takeCommand .readValue (latchAddr a s)))) :
    ReadOutcome out a s := by
  obtain ⟨t, r0, r1, hi, lo, -, -, hrun, -, -, hran, hframe, haddr, hvalue, hrxhi, hrxlo, hres, hdev, -⟩ :=
    run_readValue (n := 0) (latchAddr a s) h
  refine ⟨t, r0, r1, hi, lo, hout.trans (congrArg _ hrun), hran.of_latchAddr, hframe, haddr, hvalue,
    hrxhi, hrxlo, ?_, ?_⟩
  · rw [hres, latchAddr_cfg]
    cases s.cfg.org with
    | word16 => rfl
    | byte8 => exact zext16_eq_append lo
  · intro k hk
    rw [hframe] at hk
    rw [hdev]
    exact bracket_read_other rfl hk

/-- Settles O22: each row is its operation's fixed frame. -/
theorem fixedFrameRows : Obligations.FixedFrameRows := by
  intro s x8 x9 hr h
  refine ⟨fun ho => ⟨?_, ?_, ?_⟩, fun ho => ⟨?_, ?_, ?_⟩⟩
  · exact fixedFrameOutcome_run (fun _ => rfl) frameBytes_enable h (issueFrame_ready hr ho)
  · exact fixedFrameOutcome_run (fun _ => rfl) frameBytes_disable h (issueFrame_ready hr ho)
  · exact fixedFrameOutcome_run (fun _ => rfl) frameBytes_eraseAll h (issueFrame_ready hr ho)
  · exact fixedFrameOutcome_run (fun _ => rfl) frameBytes_enable h (issueFrame_ready hr ho)
  · exact fixedFrameOutcome_run (fun _ => rfl) frameBytes_disable h (issueFrame_ready hr ho)
  · exact fixedFrameOutcome_run (fun _ => rfl) frameBytes_eraseAll h (issueFrame_ready hr ho)

/-- Settles O23: each row latches its address and is its operation's bracket. -/
theorem addressedFrameRows : Obligations.AddressedFrameRows := by
  refine ⟨fun s a hr ho => ⟨fun h => ?_, fun h => ?_, fun h => ?_⟩,
    fun s a hr ho => ⟨fun h => ?_, fun h => ?_, fun h => ?_⟩⟩
  · exact writeBracketOutcome_run _ (by rw [ho]; exact h) (issueFrame_ready hr ho)
  · exact readOutcome_run _ h (issueFrame_ready hr ho)
  · exact eraseOneOutcome_run _ h (issueFrame_ready hr ho)
  · exact writeBracketOutcome_run _ (by rw [ho]; exact h) (issueFrame_ready hr ho)
  · exact readOutcome_run _ h (issueFrame_ready hr ho)
  · exact eraseOneOutcome_run _ h (issueFrame_ready hr ho)

end Sys2Proof.Machine

/-! ## The transport: the byte transfer, brackets, their events, and the other users of the controller

Proofs about spec/40_transport.md. The order: `configureBus`, one byte transfer and two in a row, the shape of a step
list, the kinds of the events of an operation, and the controller as other bus users leave it. -/

namespace Sys2Proof.Machine

/-! ### `configureBus` -/

/-- The step list of `configureBus` is the one step `CFGB` (R112, R120). -/
theorem run_configureBus (l : State) :
    runOperation (takeCommand .configBus l) = endOperation (nextStep (configureBus (takeCommand .configBus l))) :=
  runSteps_cfgb [] _

theorem exec_configureBus {s : State} (hr : s.ready = true) :
    exec .configureBus s = .next (endOperation (nextStep (configureBus (takeCommand .configBus s)))) :=
  (issue_ready hr).trans (congrArg _ (run_configureBus s))

theorem configured_configured (b : BusController) : b.configured.configured = b.configured := rfl

/-- `Cfg` is no event of the wire (R38). -/
theorem wire_append_cfg (es : List Event) : wire (es ++ [.cfg]) = wire es := by simp [wire]

/-- Settles O13: the state operations of the one step, field by field, and the same once more from where the first
run ends. -/
theorem configureBusResult : Obligations.ConfigureBusResult := by
  intro s hr
  obtain ⟨hc, -⟩ := ready_iff.1 hr
  set t := endOperation (nextStep (configureBus (takeCommand .configBus s))) with ht
  have htrace : t.trace = s.trace ++ [.cfg] := rfl
  have hready : t.ready = true := ready_iff.2 ⟨hc, rfl⟩
  have hlatches : SameLatches s t := ⟨rfl, rfl, rfl, rfl, rfl⟩
  have hsetting : SameSetting s t := by constructor <;> simp [ht]
  have hwire : wire t.trace = wire s.trace := by rw [htrace, wire_append_cfg]
  have hdev : t.dev = s.dev := by simp [ht]
  exact ⟨t, _, exec_configureBus hr, configured_inMode0 s.bus, rfl, rfl, rfl, rfl, rfl, rfl, rfl, htrace, hwire, rfl,
    rfl, hlatches, hsetting, hdev, rfl, hready, rfl, exec_configureBus hready, configured_configured s.bus,
    by simp [htrace]⟩

/-! ### The byte transfer -/

theorem SameLatches.trans {s t u : State} (h : SameLatches s t) (k : SameLatches t u) : SameLatches s u :=
  ⟨k.addr.trans h.addr, k.value.trans h.value, k.rxhi.trans h.rxhi, k.rxlo.trans h.rxlo, k.result.trans h.result⟩

theorem Exchanged.sameLatches {s t : State} {tx rx : Byte} (h : Exchanged s t tx rx) : SameLatches s t :=
  ⟨h.addr, h.value, h.rxhi, h.rxlo, h.result⟩

theorem Exchanged.sameSetting {s t : State} {tx rx : Byte} (h : Exchanged s t tx rx) : SameSetting s t :=
  ⟨h.constructed, h.cfg, h.dir, h.responsive, by simp [h.dev], by simp [h.dev], by simp [h.dev]⟩

/-- An environment that completes no exchange gives no answer. -/
theorem environmentAnswer_eq_none {s : State} (h : s.answersNext 1 = false) : environmentAnswer s = none := by
  rw [State.answersNext] at h
  refine environmentAnswer_none (fun rx rest hi => ?_) ?_
  · simp [hi, completes] at h
  · by_contra hr
    rw [Bool.eq_true_of_not_eq_false hr, completes_responsive] at h
    cases h

/-- From its first sub-step a transfer comes to `WAIT` (R114). -/
theorem transferByte_from_start {s : State} (tx : Byte) (hsub : s.seq.sub = .cfg) :
    transferByte tx s = xferFinish tx (xferLoad tx (xferConfigure s)) := by
  rw [transferByte_cfg hsub, transferByte_load rfl, transferByte_wait rfl]

/-- An exchange under way that the environment answers, and one that it does not (R114, R164). -/
theorem xferFinish_answered {s t : State} (tx : Byte) (hd : s.bus.done = false) (h : environmentAnswer s = some t) :
    xferFinish tx s = .completed (xferTake tx t) := by simp [xferFinish, hd, h]

theorem xferFinish_unanswered {s : State} (tx : Byte) (hd : s.bus.done = false) (h : environmentAnswer s = none) :
    xferFinish tx s = .waiting s := by simp [xferFinish, hd, h]

/-- A transfer from its first sub-step, when the environment does not answer. -/
theorem transferByte_unanswered {s : State} (tx : Byte) (hsub : s.seq.sub = .cfg) (h : s.answersNext 1 = false) :
    transferByte tx s = .waiting (xferLoad tx (xferConfigure s)) :=
  (transferByte_from_start tx hsub).trans (xferFinish_unanswered tx rfl (environmentAnswer_eq_none h))

/-- Settles O27: an answered transfer is one exchange, and an unanswered one stands where its sub-step `LOAD` left
it. -/
theorem transferByteResult : Obligations.TransferByteResult := by
  intro s tx hsub
  refine ⟨fun h => ?_, fun h => ?_⟩
  · obtain ⟨t, draw, ht, hx, -⟩ := transferByte_completes (n := 0) tx hsub h
    exact ⟨t, _, ht, hx.trace, hx.txd, hx.rxd, hx.done, hx.mode, hx.seq, hx.cs, hx.frame, hx.sameLatches,
      hx.sameSetting⟩
  · have hsetting : SameSetting s (xferLoad tx (xferConfigure s)) := by constructor <;> simp
    exact ⟨_, transferByte_unanswered tx hsub h, rfl, rfl, rfl, configured_inMode0 s.bus, rfl, rfl, rfl,
      ⟨rfl, rfl, rfl, rfl, rfl⟩, hsetting, by simp⟩

/-- Settles O28: the second transfer starts where the first one ended, at its first sub-step. -/
theorem sendFrame16 : Obligations.SendFrame16 := by
  refine ⟨fun s f hsub h => ?_, fun _ => rfl, rfl⟩
  obtain ⟨t, d0, ht, hx, hn⟩ := transferByte_completes (n := 1) (hi8 f) hsub h
  have hsub' : t.seq.sub = .cfg := by rw [hx.seq]
  obtain ⟨u, d1, hu, hy, -⟩ := transferByte_completes (n := 0) (lo8 f) hsub' hn
  have htrace : u.trace = s.trace ++ [.cfg, .x (hi8 f) (s.dev.answer d0), .cfg, .x (lo8 f) (t.dev.answer d1)] := by
    simp [hy.trace, hx.trace]
  exact ⟨t, u, _, _, ht, hu, htrace, hx.sameLatches.trans hy.sameLatches,
    hy.frame.trans hx.frame, hy.cs.trans hx.cs⟩

/-! ### The shape of a step list -/

/-- A step of a byte exchange (R115). -/
def SeqStep.exchanges : SeqStep → Bool
  | .tx _ => true
  | .rx _ => true
  | .csa _ => false
  | .csd => false
  | .cfgb => false
  | .res => false

theorem SeqStep.exchanges_iff {st : SeqStep} : st.exchanges = true ↔ (∃ e, st = .tx e) ∨ ∃ d, st = .rx d := by
  cases st <;> simp [SeqStep.exchanges]

/-- The transfers that follow the frame in the write bracket (R140). -/
def valueSteps : Org → List SeqStep
  | .word16 => [.tx .valueHi, .tx .valueLo]
  | .byte8 => [.tx .valueLo]

/-- The brackets of an operation: the frame that each one sends, and the transfers after the frame (R91, R120). -/
def bracketsOf (org : Org) : SeqOp → List (FrameKind × List SeqStep)
  | .none => []
  | .configBus => []
  | .enableWrite => [(.enable, [])]
  | .disableWrite => [(.disable, [])]
  | .eraseAll => [(.eraseAll, [])]
  | .writeValue => [(.enable, []), (.write, valueSteps org), (.disable, [])]
  | .readValue => [(.read, [.rx .rxhi, .rx .rxlo])]
  | .eraseOne => [(.eraseOne, [])]
  | .writeBracket => [(.write, valueSteps org)]

/-- The step lists are those brackets, and `RES` after the one of a read (R118, R120). -/
theorem stepList_eq_brackets {op : SeqOp} (hop : op ≠ .configBus) (org : Org) :
    stepList op org =
      ((bracketsOf org op).flatMap fun b => .csa b.1 :: .tx .frameHi :: .tx .frameLo :: (b.2 ++ [.csd])) ++
        (if op = .readValue then [.res] else []) := by
  cases op with
  | configBus => exact absurd rfl hop
  | _ => cases org <;> rfl

theorem bracketsOf_length {op : SeqOp} (hn : op ≠ .none) (hc : op ≠ .configBus) (org : Org) :
    (bracketsOf org op).length = if op = .writeValue then 3 else 1 := by
  cases op with
  | none => exact absurd rfl hn
  | configBus => exact absurd rfl hc
  | _ => rfl

/-- After the frame come at most two steps, all of them transfers (R118). -/
theorem bracketsOf_transfers (op : SeqOp) (org : Org) :
    ∀ b ∈ bracketsOf org op, b.2.length ≤ 2 ∧ ∀ st ∈ b.2, st.exchanges = true := by
  cases op <;> cases org <;> decide

/-- Settles O29: `bracketsOf` are the brackets. -/
theorem bracketShape : Obligations.BracketShape := by
  intro op org hn hc
  refine ⟨bracketsOf org op, stepList_eq_brackets hc org, bracketsOf_length hn hc org, fun b hb => ?_⟩
  obtain ⟨hlen, htransfers⟩ := bracketsOf_transfers op org b hb
  exact ⟨hlen, fun st hst => SeqStep.exchanges_iff.1 (htransfers st hst)⟩

/-! ### The events of an operation -/

/-- The kinds of the events of `n` exchanges (R122). -/
def exchangeKinds (n : Nat) : List EventKind := (List.replicate n [.cfg, .x]).flatten

/-- The kinds of the events of a bracket of `n` exchanges (R122). -/
def bracketKinds (n : Nat) : List EventKind := .cs1 :: exchangeKinds n ++ [.cs0]

theorem exchangeEvents_kinds {tx rx : List Byte} (hl : rx.length = tx.length) :
    (exchangeEvents tx rx).map Event.kind = exchangeKinds tx.length := by
  induction tx generalizing rx with
  | nil => rfl
  | cons b tx ih =>
    cases rx with
    | nil => cases hl
    | cons r rx => exact congrArg (fun ks => .cfg :: .x :: ks) (ih (Nat.succ.inj hl))

theorem bracketEvents_kinds {tx rx : List Byte} (hl : rx.length = tx.length) :
    (bracketEvents tx rx).map Event.kind = bracketKinds tx.length := by
  simp [bracketEvents, bracketKinds, exchangeEvents_kinds hl, Event.kind]

/-- The outcome is a next state, with events of these kinds appended to the trace. -/
def Appends (s : State) (out : Host.Outcome State Fault Refusal) (kinds : List EventKind) : Prop :=
  ∃ t es, out = .next t ∧ t.trace = s.trace ++ es ∧ es.map Event.kind = kinds

theorem RanToEnd.appends {s t : State} {es : List Event} (h : RanToEnd s t es)
    {out : Host.Outcome State Fault Refusal} (hout : out = .next t) : Appends s out (es.map Event.kind) :=
  ⟨t, es, hout, h.trace, rfl⟩

theorem FixedFrameOutcome.appends {s : State} {out : Host.Outcome State Fault Refusal} {bytes : Org → List Byte}
    (h : FixedFrameOutcome out bytes s) : Appends s out (bracketKinds 2) := by
  obtain ⟨t, rx, hout, hrx, hran, hframe, -⟩ := h
  have hbytes : (bytes s.cfg.org).length = 2 := by rw [← hframe]; rfl
  have happ := hran.appends hout
  rwa [bracketEvents_kinds (hrx.trans hbytes.symm), hbytes] at happ

theorem EraseOneOutcome.appends {s : State} {out : Host.Outcome State Fault Refusal} {a : Half}
    (h : EraseOneOutcome out a s) : Appends s out (bracketKinds 2) := by
  obtain ⟨t, rx, hout, hrx, hran, -⟩ := h
  have happ := hran.appends hout
  rwa [bracketEvents_kinds hrx] at happ

theorem ReadOutcome.appends {s : State} {out : Host.Outcome State Fault Refusal} {a : Half}
    (h : ReadOutcome out a s) : Appends s out (bracketKinds 4) := by
  obtain ⟨t, r0, r1, hi, lo, hout, hran, -⟩ := h
  exact hran.appends hout

theorem enableBytes_length (org : Org) : (enableBytes org).length = 2 := by cases org <;> rfl

theorem disableBytes_length (org : Org) : (disableBytes org).length = 2 := by cases org <;> rfl

/-- The events of `writeValue` (R122, R140). -/
theorem exec_writeValue_appends {s : State} (hr : s.ready = true) (a v : Half)
    (h : s.answersNext (writeExchanges s.cfg.org) = true) :
    Appends s (exec (.writeValue a v) s)
      (bracketKinds 2 ++ bracketKinds (writeBytes s.cfg.org a v).length ++ bracketKinds 2) := by
  obtain ⟨t, r0, r1, r2, hrun, h0, h1, h2, hran, -⟩ := run_writeValue (n := 0) (latchValue v (latchAddr a s)) h
  have happ : Appends s (exec (.writeValue a v) s)
      ((bracketEvents (enableBytes s.cfg.org) r0 ++ bracketEvents (writeBytes s.cfg.org a v) r1 ++
        bracketEvents (disableBytes s.cfg.org) r2).map Event.kind) :=
    hran.of_latchValue.of_latchAddr.appends ((issue_ready hr).trans (congrArg _ hrun))
  have hen := enableBytes_length s.cfg.org
  have hdis := disableBytes_length s.cfg.org
  rwa [List.map_append, List.map_append, bracketEvents_kinds (h0.trans hen.symm),
    bracketEvents_kinds (tx := writeBytes s.cfg.org a v) h1, bracketEvents_kinds (h2.trans hdis.symm), hen,
    hdis] at happ

/-- Settles O25: each command appends the events of its brackets, whose kinds the number of exchanges gives. -/
theorem eventsPerOperation : Obligations.EventsPerOperation := by
  intro s a v hr i hi h
  simp only [hostCommands, List.mem_cons, List.not_mem_nil, or_false] at hi
  rcases hi with rfl | rfl | rfl | rfl | rfl | rfl | rfl
  · exact ⟨_, [.cfg], exec_configureBus hr, rfl, rfl⟩
  · exact (fixedFrameOutcome_run (fun _ => rfl) frameBytes_enable h (issue_ready hr)).appends
  · exact (fixedFrameOutcome_run (fun _ => rfl) frameBytes_disable h (issue_ready hr)).appends
  · exact (fixedFrameOutcome_run (fun _ => rfl) frameBytes_eraseAll h (issue_ready hr)).appends
  · have happ := exec_writeValue_appends hr a v h
    cases ho : s.cfg.org <;> rw [ho] at happ <;> exact happ
  · exact (readOutcome_run a h (issue_ready hr)).appends
  · exact (eraseOneOutcome_run a h (issue_ready hr)).appends

/-! ### The controller as other bus users leave it -/

/-- The same state with other controller contents. -/
def State.withBus (s : State) (b : BusController) : State := { s with bus := b }

/-- The answer of the environment overwrites the received byte (R22). -/
theorem environmentAnswer_rxd (s : State) (r : Byte) :
    environmentAnswer (s.withBus { s.bus with rxd := r }) = environmentAnswer s := rfl

/-- After `LOAD` only the received byte is left of what the controller held (R112, R114). -/
theorem xferLoad_xferConfigure_withBus (tx : Byte) (s : State) (b : BusController) :
    xferLoad tx (xferConfigure (s.withBus b)) =
      (xferLoad tx (xferConfigure s)).withBus { (xferLoad tx (xferConfigure s)).bus with rxd := b.rxd } := rfl

/-- A transfer from its first sub-step goes alike whatever the controller holds: to the very same state, or to a
wait in the same state but for the controller (R113). -/
theorem transferByte_withBus {s : State} (tx : Byte) (b : BusController) (hsub : s.seq.sub = .cfg) :
    (∃ t, transferByte tx s = .completed t ∧ transferByte tx (s.withBus b) = .completed t) ∨
    ∃ t c, transferByte tx s = .waiting t ∧ transferByte tx (s.withBus b) = .waiting (t.withBus c) := by
  have hsub' : (s.withBus b).seq.sub = .cfg := hsub
  rw [transferByte_from_start tx hsub, transferByte_from_start tx hsub', xferLoad_xferConfigure_withBus]
  cases ha : environmentAnswer (xferLoad tx (xferConfigure s)) with
  | some u =>
    exact .inl ⟨_, xferFinish_answered tx rfl ha, xferFinish_answered tx rfl ((environmentAnswer_rxd _ _).trans ha)⟩
  | none =>
    exact .inr ⟨_, _, xferFinish_unanswered tx rfl ha,
      xferFinish_unanswered tx rfl ((environmentAnswer_rxd _ _).trans ha)⟩

/-- A step that transfers nothing reads no field of the controller. -/
theorem act_withBus (st : SeqStep) (s : State) (b : BusController) :
    ∃ c, st.act (s.withBus b) = (st.act s).withBus c := by
  cases st <;> exact ⟨_, rfl⟩

/-- A step from its start goes alike whatever the controller holds. -/
theorem performStep_withBus (st : SeqStep) {s : State} (b : BusController) (hsub : s.seq.sub = .cfg) :
    (∃ t c, performStep st s = .completed t ∧ performStep st (s.withBus b) = .completed (t.withBus c)) ∨
    ∃ t c, performStep st s = .waiting t ∧ performStep st (s.withBus b) = .waiting (t.withBus c) := by
  have hsends : st.sends (s.withBus b) = st.sends s := sends_congr st rfl rfl
  cases hst : st.sends s with
  | none =>
    obtain ⟨c, hc⟩ := act_withBus st s b
    exact .inl ⟨_, c, performStep_act hst, (performStep_act (hsends.trans hst)).trans (congrArg _ hc)⟩
  | some tx =>
    rw [performStep_transfer hst, performStep_transfer (hsends.trans hst)]
    rcases transferByte_withBus tx b hsub with ⟨t, ht, htb⟩ | ⟨t, c, ht, htb⟩
    · rw [ht, htb]
      exact .inl ⟨_, (st.keep t).bus, rfl, rfl⟩
    · rw [ht, htb]
      exact .inr ⟨t, c, rfl, rfl⟩

/-- A run from between two steps goes alike whatever the controller holds (R113). -/
theorem runSteps_withBus (l : List SeqStep) {s : State} (b : BusController) (hsub : s.seq.sub = .cfg) :
    ∃ c, runSteps l (s.withBus b) = (runSteps l s).withBus c := by
  induction l generalizing s b with
  | nil => exact ⟨b, rfl⟩
  | cons st rest ih =>
    rcases performStep_withBus st b hsub with ⟨t, c, ht, htb⟩ | ⟨t, c, ht, htb⟩
    · rw [runSteps_completed ht, runSteps_completed htb]
      exact ih (s := nextStep t) c rfl
    · rw [runSteps_waiting ht, runSteps_waiting htb]
      exact ⟨c, rfl⟩

/-- A taken operation starts at a first sub-step, whatever the controller holds (R117). -/
theorem runOperation_takeCommand_withBus (op : SeqOp) (l : State) (b : BusController) :
    ∃ c, runOperation (takeCommand op (l.withBus b)) = (runOperation (takeCommand op l)).withBus c :=
  runSteps_withBus (stepList op l.cfg.org) (s := takeCommand op l) b rfl

theorem issue_withBus {op : SeqOp} {l s t : State} (h : issue op l s = .next t) (b : BusController) :
    ∃ c, issue op (l.withBus b) (s.withBus b) = .next (t.withBus c) := by
  cases hr : s.ready with
  | true =>
    obtain ⟨c, hc⟩ := runOperation_takeCommand_withBus op l b
    rw [issue_ready hr] at h
    cases h
    exact ⟨c, by rw [issue_ready (s := s.withBus b) hr, hc]⟩
  | false =>
    rw [issue_refused hr] at h
    cases h
    exact ⟨b, issue_refused hr⟩

theorem issueFrame_withBus {org : Org} {op : SeqOp} {l s t : State} (h : issueFrame org op l s = .next t)
    (b : BusController) : ∃ c, issueFrame org op (l.withBus b) (s.withBus b) = .next (t.withBus c) := by
  cases hr : s.ready with
  | true =>
    by_cases ho : s.cfg.org = org
    · obtain ⟨c, hc⟩ := runOperation_takeCommand_withBus op l b
      rw [issueFrame_ready hr ho] at h
      cases h
      exact ⟨c, by rw [issueFrame_ready (s := s.withBus b) hr ho, hc]⟩
    · rw [issueFrame_reserved hr ho] at h
      cases h
  | false =>
    rw [issueFrame_refused hr] at h
    cases h
    exact ⟨b, issueFrame_refused hr⟩

/-- `construct` reads no field of the controller, and a second one changes nothing (R180, R183). -/
theorem execConstruct_withBus {line : LineId} {org : Org} {s t : State} (h : execConstruct line org s = .next t)
    (b : BusController) : ∃ c, execConstruct line org (s.withBus b) = .next (t.withBus c) := by
  unfold execConstruct at h ⊢
  split at h
  next hc => cases h; exact ⟨b, if_pos hc⟩
  next hc => cases h; exact ⟨_, if_neg hc⟩

/-- Any instruction goes alike whatever the controller holds (R113). -/
theorem exec_withBus {i : Instr} {s t : State} (h : exec i s = .next t) (b : BusController) :
    ∃ c, exec i (s.withBus b) = .next (t.withBus c) := by
  cases i with
  | construct line org => exact execConstruct_withBus h b
  | configureBus => exact issue_withBus h b
  | enableWrite => exact issue_withBus h b
  | disableWrite => exact issue_withBus h b
  | eraseAll => exact issue_withBus h b
  | writeValue a v => exact issue_withBus h b
  | readValue a => exact issue_withBus h b
  | eraseOne a => exact issue_withBus h b
  | enableWriteW x8 => exact issueFrame_withBus h b
  | enableWriteB x9 => exact issueFrame_withBus h b
  | disableWriteW x8 => exact issueFrame_withBus h b
  | disableWriteB x9 => exact issueFrame_withBus h b
  | eraseAllW x8 => exact issueFrame_withBus h b
  | eraseAllB x9 => exact issueFrame_withBus h b
  | writeW a => exact issueFrame_withBus h b
  | writeB a => exact issueFrame_withBus h b
  | readW a => exact issueFrame_withBus h b
  | readB a => exact issueFrame_withBus h b
  | eraseOneW a => exact issueFrame_withBus h b
  | eraseOneB a => exact issueFrame_withBus h b

/-- Settles O34: a run whose transfers start at their first sub-step goes alike whatever the controller holds, and a
transfer leaves mode 0 whether it is answered or waits (`transferByteResult`). -/
theorem busContentsDoNotMatter : Obligations.BusContentsDoNotMatter := by
  refine ⟨fun s t b i h => ?_, fun s b tx hsub => ?_⟩
  · obtain ⟨c, hc⟩ := exec_withBus h b
    exact ⟨_, hc, rfl⟩
  · obtain ⟨hanswered, hwaits⟩ := transferByteResult (s.withBus b) tx hsub
    cases ha : (s.withBus b).answersNext 1 with
    | true =>
      obtain ⟨t, -, ht, -, -, -, -, hmode, -⟩ := hanswered ha
      exact ⟨t, .inl ht, hmode⟩
    | false =>
      obtain ⟨t, ht, -, -, -, hmode, -⟩ := hwaits ha
      exact ⟨t, .inr ht, hmode⟩

end Sys2Proof.Machine

/-! ## Write control: the operations of a fixed frame

Proofs about spec/41_write_control.md. An operation of a fixed frame is one bracket (`fixedFrameOutcome_run`); what is
left is what the frames of the latch commands are to a device of either organization. -/

namespace Sys2Proof.Machine

/-- The constant of a row, which has zeros in all the other bits, is one of the row's frames (R87, R95). -/
theorem rowOf_accepts_base (o : Org) (k : FrameKind) : (rowOf o k).accepts (shiftOrg o (baseOpcode k)) := by
  cases o <;> cases k <;> rfl

/-- The commands of the write-enable latch (R130, R131). -/
def FrameKind.setsLatch : FrameKind → Bool
  | .enable => true
  | .disable => true
  | .eraseAll => false
  | .write => false
  | .read => false
  | .eraseOne => false

theorem addressed_of_setsLatch {k : FrameKind} (hk : k.setsLatch = true) : addressed k = false := by
  cases k <;> cases hk <;> rfl

/-- A latch command stores to no byte (R70). -/
theorem not_storesTo_commandOf {k : FrameKind} (hk : k.setsLatch = true) (o o' : Org) (f : Half) (key : Nat) :
    ¬ storesTo o' key (commandOf o k f) := by
  cases k <;> cases hk <;> exact id

/-- The frame of a latch command stores to no byte of a device of either organization: to one of the block's own it is
the latch command, to one of the other it is unknown (R94, R96). -/
theorem not_storesTo_frameOf {k : FrameKind} (hk : k.setsLatch = true) (o o' : Org) (a : Half) (key : Nat) :
    ¬ storesTo o' key (decodeFrame o' (frameOf k o a)) := by
  rw [frameOf_fixed (addressed_of_setsLatch hk), decodeFrame_of_accepts (rowOf_accepts_base o k)]
  split
  · exact not_storesTo_commandOf hk o o' _ key
  · exact id

/-- An operation that sends the frame of a latch command and no other leaves the whole array as it was. -/
theorem FixedFrameOutcome.sameArray {s : State} {out : Host.Outcome State Fault Refusal} {bytes : Org → List Byte}
    (h : FixedFrameOutcome out bytes s) {k : FrameKind} (hk : k.setsLatch = true)
    (hbytes : ∀ o a, frameBytes (frameOf k o a) = bytes o) : ∀ t, out = .next t → SameArray s t := by
  obtain ⟨u, rx, hout, -, -, hframe, -, harray⟩ := h
  intro t ht key
  cases hout.symm.trans ht
  have hsent : u.frame = frameOf k s.cfg.org s.addr := frameBytes_injective (hframe.trans (hbytes _ _).symm)
  refine harray key ?_
  rw [hsent]
  exact not_storesTo_frameOf hk _ _ _ key

/-- Settles O14: each operation is the bracket of its fixed frame, and a latch command's frame stores nothing. -/
theorem fixedFrameOperations : Obligations.FixedFrameOperations := by
  intro s hr h
  have henable : FixedFrameOutcome (exec .enableWrite s) enableBytes s :=
    fixedFrameOutcome_run (fun _ => rfl) frameBytes_enable h (issue_ready hr)
  have hdisable : FixedFrameOutcome (exec .disableWrite s) disableBytes s :=
    fixedFrameOutcome_run (fun _ => rfl) frameBytes_disable h (issue_ready hr)
  have heraseAll : FixedFrameOutcome (exec .eraseAll s) eraseAllBytes s :=
    fixedFrameOutcome_run (fun _ => rfl) frameBytes_eraseAll h (issue_ready hr)
  exact ⟨henable, hdisable, heraseAll, henable.sameArray rfl frameBytes_enable,
    hdisable.sameArray rfl frameBytes_disable⟩

end Sys2Proof.Machine

/-! ## Data access: `writeValue`, `readValue` and `eraseOne`

Proofs about spec/42_data_access.md. What the three operations run through is said once under Laws/Operations; here are
the brackets of `writeValue` against the array, and a read with nothing on the bus but the environment's bytes. -/

namespace Sys2Proof.Machine

/-- Settles O16: `readValue` latches its address and is the read bracket. -/
theorem readValueResult : Obligations.ReadValueResult := fun _ a hr h => readOutcome_run a h (issue_ready hr)

/-- Settles O17: `eraseOne` latches its address and is the bracket of its frame. -/
theorem eraseOneResult : Obligations.EraseOneResult := fun _ a hr h => eraseOneOutcome_run a h (issue_ready hr)

/-! ### The array through `writeValue` -/

/-- The bracket of a latch command, of either organization, leaves every byte of the array alone (R70, R96). -/
theorem latchBracket_read {k : FrameKind} (hk : k.setsLatch = true) (o : Org) (a : Half) (d : RefDev)
    {rx : List Byte} (hl : rx.length = 2) (key : Nat) :
    (d.reactAll (bracketEvents (frameBytes (frameOf k o a)) rx)).mem.read key = d.mem.read key :=
  bracket_read_other (data := []) hl (not_storesTo_frameOf hk o d.org a key)

/-- The three brackets of `writeValue` leave every byte alone but those that its write frame stores to, whatever the
organizations of block and device are (R70, R140). -/
theorem reactAll_writeValue_read_other {o : Org} {a v : Half} {d : RefDev} {r0 r1 r2 : List Byte}
    (h0 : r0.length = 2) (h1 : r1.length = (writeBytes o a v).length) (h2 : r2.length = 2) {key : Nat}
    (hkey : ¬ storesTo d.org key (decodeFrame d.org (writeFrame o a))) :
    (d.reactAll (bracketEvents (enableBytes o) r0 ++ bracketEvents (writeBytes o a v) r1 ++
      bracketEvents (disableBytes o) r2)).mem.read key = d.mem.read key := by
  rw [reactAll_append, reactAll_append, ← frameBytes_enable o a, ← frameBytes_disable o a]
  set e := d.reactAll (bracketEvents (frameBytes (frameOf .enable o a)) r0)
  have heorg : e.org = d.org := reactAll_org _ _
  calc _ = (e.reactAll (bracketEvents (writeBytes o a v) r1)).mem.read key := latchBracket_read rfl o a _ h2 key
    _ = e.mem.read key := bracket_read_other h1 (by rwa [heorg])
    _ = d.mem.read key := latchBracket_read rfl o a d h0 key

/-- Settles O15: the run of `writeValue`, and the device through its three brackets. -/
theorem writeValueResult : Obligations.WriteValueResult := by
  intro s a v hr h
  obtain ⟨t, r0, r1, r2, hrun, h0, h1, h2, hran, hframe, haddr, hvalue, hrxhi, hrxlo, hres, hdev, -⟩ :=
    run_writeValue (n := 0) (latchValue v (latchAddr a s)) h
  refine ⟨t, r0, r1, r2, (issue_ready hr).trans (congrArg _ hrun), h0, h1, h2, hran.of_latchValue.of_latchAddr,
    ?_, haddr, hvalue, hrxhi, hrxlo, hres, fun key hkey => ?_⟩
  · rw [hframe]
    exact frameBytes_disable _ _
  · rw [hdev]
    exact reactAll_writeValue_read_other h0 h1 h2 hkey

/-! ### A read with no device attached -/

@[simp] theorem keep_inputs (st : SeqStep) (s : State) : (st.keep s).inputs = s.inputs := by
  cases st with
  | rx d => cases d <;> rfl
  | _ => rfl

@[simp] theorem keep_dev (st : SeqStep) (s : State) : (st.keep s).dev = s.dev := by
  cases st with
  | rx d => cases d <;> rfl
  | _ => rfl

/-- Without a device on the bus the byte received is the environment's (R22, R66). -/
theorem answer_detached {d : RefDev} (h : d.attached = false) (draw : Byte) : d.answer draw = draw := by
  simp [RefDev.answer, h]

/-- The block stands before a step, with no device attached and these moves of the other agents to come. -/
structure State.hears (s : State) (script : List Input) : Prop where
  sub : s.seq.sub = .cfg
  detached : s.dev.attached = false
  inputs : s.inputs = script

/-- A transfer takes the completion that comes next, with the byte it carries (R22, R114). -/
theorem transferByte_hears {s : State} {b : Byte} {script : List Input} (h : s.hears (.busComplete b :: script))
    (tx : Byte) : ∃ t, transferByte tx s = .completed t ∧ Exchanged s t tx b ∧ t.inputs = script := by
  obtain ⟨hsub, hdet, hin⟩ := h
  have hanswers : s.answersNext (0 + 1) = true := by rw [State.answersNext, hin]; rfl
  obtain ⟨t, draw, ht, hx, -⟩ := transferByte_completes tx hsub hanswers
  have hanswer : environmentAnswer (xferLoad tx (xferConfigure s)) =
      some (busComplete b { xferLoad tx (xferConfigure s) with inputs := script }) := environmentAnswer_scripted hin
  have htake := (transferByte_from_start tx hsub).symm.trans ht
  rw [xferFinish_answered tx rfl hanswer] at htake
  cases htake
  have hrxd : s.dev.answer draw = b := by
    rw [← hx.rxd]
    simpa [BusController.finishExchange] using answer_detached hdet b
  exact ⟨_, ht, hrxd ▸ hx, rfl⟩

/-- A transfer step takes the byte that comes next, into the receive latch it names and no other (R32, R115). -/
theorem runSteps_hears {st : SeqStep} {rest : List SeqStep} {s : State} {tx b : Byte} {script : List Input}
    (hst : st.sends s = some tx) (h : s.hears (.busComplete b :: script)) :
    ∃ u, u.hears script ∧ u.rxhi = (if st = .rx .rxhi then b else s.rxhi) ∧
      u.rxlo = (if st = .rx .rxlo then b else s.rxlo) ∧ runSteps (st :: rest) s = runSteps rest u := by
  obtain ⟨t, ht, hx, hin⟩ := transferByte_hears h tx
  have hdet : t.dev.attached = false := by rw [hx.dev, react_attached, h.detached]
  refine ⟨nextStep (st.keep t), ⟨rfl, by simpa using hdet, by simpa using hin⟩, ?_, ?_,
    runSteps_completed (by rw [performStep_transfer hst, ht])⟩
  · cases st with
    | rx d => cases d <;> simp [SeqStep.keep, hx.rxd, hx.rxhi]
    | tx e => simp [SeqStep.keep, hx.rxhi]
    | _ => cases hst
  · cases st with
    | rx d => cases d <;> simp [SeqStep.keep, hx.rxd, hx.rxlo]
    | tx e => simp [SeqStep.keep, hx.rxlo]
    | _ => cases hst

/-- The run of `readValue` with no device attached takes four bytes of the environment and keeps the last two. -/
theorem run_readValue_hears {l : State} {b0 b1 hi lo : Byte} {script : List Input} (hdet : l.dev.attached = false)
    (hin : l.inputs = .busComplete b0 :: .busComplete b1 :: .busComplete hi :: .busComplete lo :: script) :
    let t := runOperation (takeCommand .readValue l)
    t.inputs = script ∧ t.rxhi = hi ∧ t.rxlo = lo := by
  have hopen : (nextStep (assertCs (frameOf .read l.cfg.org l.addr) (takeCommand .readValue l))).hears
      (.busComplete b0 :: .busComplete b1 :: .busComplete hi :: .busComplete lo :: script) :=
    ⟨rfl, by simpa using hdet, hin⟩
  obtain ⟨u0, hu0, -, -, run0⟩ := runSteps_hears (st := .tx .frameHi)
    (rest := [.tx .frameLo, .rx .rxhi, .rx .rxlo, .csd, .res]) rfl hopen
  obtain ⟨u1, hu1, -, -, run1⟩ := runSteps_hears (st := .tx .frameLo)
    (rest := [.rx .rxhi, .rx .rxlo, .csd, .res]) rfl hu0
  obtain ⟨u2, hu2, hhi, -, run2⟩ := runSteps_hears (st := .rx .rxhi) (rest := [.rx .rxlo, .csd, .res]) rfl hu1
  obtain ⟨u3, hu3, hhi', hlo, run3⟩ := runSteps_hears (st := .rx .rxlo) (rest := [.csd, .res]) rfl hu2
  have hrun : runOperation (takeCommand .readValue l) =
      endOperation (nextStep (latchResult (nextStep (deassertCs u3)))) := by
    calc _ = runSteps [.tx .frameHi, .tx .frameLo, .rx .rxhi, .rx .rxlo, .csd, .res] _ := runSteps_csa .read _ _
      _ = runSteps [.csd, .res] u3 := run0.trans (run1.trans (run2.trans run3))
      _ = _ := by rw [runSteps_csd, runSteps_res]; rfl
  rw [hrun]
  exact ⟨hu3.inputs, hhi'.trans hhi, hlo⟩

/-- Settles O18: the bytes that the run takes from the environment, in the read that `readValue` is (O16). -/
theorem readReturnsWhatTheBusReceived : Obligations.ReadReturnsWhatTheBusReceived := by
  intro s a b0 b1 hi lo rest hr hdet hin
  have h4 : s.answersNext 4 = true := by rw [State.answersNext, hin]; rfl
  obtain ⟨hinputs, hhi, hlo⟩ := run_readValue_hears (l := latchAddr a s) hdet hin
  have hexec : exec (.readValue a) s = .next (runOperation (takeCommand .readValue (latchAddr a s))) := issue_ready hr
  obtain ⟨t, -, -, hi', lo', ht, -, -, -, -, hhi', hlo', hres, -⟩ := readValueResult s a hr h4
  cases hexec.symm.trans ht
  obtain rfl : hi' = hi := hhi'.symm.trans hhi
  obtain rfl : lo' = lo := hlo'.symm.trans hlo
  exact ⟨_, hexec, hinputs, hhi, hlo, hres⟩

end Sys2Proof.Machine

/-! ## Exceptions: what is refused, and how an operation ends or hangs

Proofs about spec/60_exceptions.md. The order: presentations that a block refuses, the exchanges of a step list, a run
whose exchanges are all answered, one whose exchanges are not, and the hang. -/

namespace Sys2Proof.Machine

/-! ### Refused presentations -/

theorem ready_of_not_constructed {s : State} (h : s.constructed = false) : s.ready = false := by
  simp [State.ready, h]

theorem ready_of_op {s : State} (h : s.seq.op ≠ .none) : s.ready = false := by simp [State.ready, h]

/-- A host command issues its operation, with the operands it latches (R117). -/
theorem exec_hostCommand {a v : Half} {i : Instr} (hi : i ∈ hostCommands a v) (s : State) :
    ∃ a' v', exec i s = issue (opOf i) { s with addr := a', value := v' } s := by
  simp only [hostCommands, List.mem_cons, List.not_mem_nil, or_false] at hi
  rcases hi with rfl | rfl | rfl | rfl | rfl | rfl | rfl
  · exact ⟨s.addr, s.value, rfl⟩
  · exact ⟨s.addr, s.value, rfl⟩
  · exact ⟨s.addr, s.value, rfl⟩
  · exact ⟨s.addr, s.value, rfl⟩
  · exact ⟨a, v, rfl⟩
  · exact ⟨a, s.value, rfl⟩
  · exact ⟨a, s.value, rfl⟩

/-- A command presented to a block that is not ready is refused (R166). -/
theorem step_refuses_command {s : State} {op : BitVec 3} {addr value : Half} {rest : List Input}
    (hin : s.inputs = .present (.host op addr value) :: rest) (hr : s.ready = false) :
    step s = .next { s with inputs := rest } := by
  by_cases hop : op = 7
  · subst hop
    exact reservedCommandRefused.1 s addr value rest hin
  · obtain ⟨i, hd, hi⟩ := decodeHost_defined hop addr value
    obtain ⟨a', v', hexec⟩ := exec_hostCommand hi { s with inputs := rest }
    rw [stepRunsTheDecodedInstruction s _ rest i hin hd, hexec]
    exact issue_refused hr

/-- Settles O21: a block that is not constructed or not idle is not ready, and code 7 is no instruction (O10). -/
theorem refusedCommandsChangeNothing : Obligations.RefusedCommandsChangeNothing := by
  intro s op addr value rest hin h
  rcases h with hc | hop | rfl
  · exact step_refuses_command hin (ready_of_not_constructed hc)
  · exact step_refuses_command hin (ready_of_op hop)
  · exact reservedCommandRefused.1 s addr value rest hin

/-- The reset event in a constructed block is refused (R183). -/
theorem step_refuses_reset {s : State} {line : LineId} {org : BitVec 1} {rest : List Input}
    (hin : s.inputs = .present (.reset line org) :: rest) (hc : s.constructed = true) :
    step s = .next { s with inputs := rest } := by
  rw [stepRunsTheDecodedInstruction s _ rest _ hin rfl]
  exact if_pos hc

/-- Whatever the host presents while an operation is in flight is refused (R166, R183). -/
theorem step_refuses_fromHost {s : State} (hf : s.inFlight = true) {x : Input} (hx : x.fromHost) {rest : List Input}
    (hin : s.inputs = x :: rest) : step s = .next { s with inputs := rest } := by
  obtain ⟨hc, hop⟩ := inFlight_iff.1 hf
  match x, hx with
  | .present (.host _ _ _), _ => exact step_refuses_command hin (ready_of_op hop)
  | .present (.reset _ _), _ => exact step_refuses_reset hin hc

theorem run_succ_of_step {M : Host.Core} {s t : M.State} (h : M.step s = .next t) (n : Nat) :
    M.run (n + 1) s = M.run n t := by
  simp [Host.Core.run, h]

/-- Presentations of the host do not hinder what the operation in flight does after them. -/
theorem run_presentations {presented rest : List Input} (hp : ∀ x ∈ presented, x.fromHost) (n : Nat) {s : State}
    (hf : s.inFlight = true) (hin : s.inputs = presented ++ rest) :
    Host.Core.run Sys2Proof.core (presented.length + n) s =
      Host.Core.run Sys2Proof.core n ({ s with inputs := rest } : State) := by
  induction presented generalizing s with
  | nil =>
    have hs : ({ s with inputs := rest } : State) = s := by rw [List.nil_append] at hin; rw [← hin]
    rw [hs, List.length_nil, Nat.zero_add]
  | cons x presented ih =>
    rw [List.length_cons, Nat.add_right_comm,
      run_succ_of_step (M := Sys2Proof.core) (step_refuses_fromHost hf (hp x List.mem_cons_self) hin)]
    exact ih (fun y hy => hp y (List.mem_cons_of_mem x hy)) (s := { s with inputs := presented ++ rest }) hf rfl

/-- The operation in flight runs on when nothing is on its way or a completion is next (R22, R164). -/
theorem step_runs_on {s : State} (hf : s.inFlight = true)
    (hin : s.inputs = [] ∨ ∃ rx rest, s.inputs = .busComplete rx :: rest) : step s = .next (runOperation s) := by
  rcases hin with hin | ⟨rx, rest, hin⟩
  · simp [step, hin, nothingArrives, hf]
  · simp [step, hin, completionArrives, hf]

/-! ### The exchanges of a step list -/

/-- The steps that send a byte are the exchanges (R115). -/
theorem sends_isSome (st : SeqStep) (s : State) : (st.sends s).isSome = st.exchanges := by cases st <;> rfl

theorem countP_exchanges_act {st : SeqStep} {s : State} (h : st.sends s = none) (rest : List SeqStep) :
    (st :: rest).countP SeqStep.exchanges = rest.countP SeqStep.exchanges :=
  List.countP_cons_of_neg (by simp [← sends_isSome st s, h])

theorem countP_exchanges_transfer {st : SeqStep} {s : State} {tx : Byte} (h : st.sends s = some tx)
    (rest : List SeqStep) : (st :: rest).countP SeqStep.exchanges = rest.countP SeqStep.exchanges + 1 :=
  List.countP_cons_of_pos (by simp [← sends_isSome st s, h])

theorem exchangesLeft_eq (s : State) : s.exchangesLeft = s.stepsLeft.countP SeqStep.exchanges := by
  simp only [State.exchangesLeft, sends_isSome]

/-- The longest operation is `writeValue` of `WORD16`: 14 steps, eight of them exchanges (R120, R122). -/
theorem stepList_bounds (op : SeqOp) (org : Org) :
    (stepList op org).length ≤ 14 ∧ (stepList op org).countP SeqStep.exchanges ≤ 8 := by
  cases op <;> cases org <;> decide

theorem stepsLeft_length_le (s : State) : s.stepsLeft.length ≤ 14 :=
  (List.drop_sublist _ _).length_le.trans (stepList_bounds s.seq.op s.cfg.org).1

theorem exchangesLeft_le (s : State) : s.exchangesLeft ≤ 8 := by
  rw [exchangesLeft_eq]
  exact (List.drop_sublist _ _).countP_le.trans (stepList_bounds s.seq.op s.cfg.org).2

/-- A host command makes the exchanges of its step list (R120, R122). -/
theorem exchangesOf_eq {a v : Half} {i : Instr} (hi : i ∈ hostCommands a v) (org : Org) :
    exchangesOf org i = (stepList (opOf i) org).countP SeqStep.exchanges := by
  simp only [hostCommands, List.mem_cons, List.not_mem_nil, or_false] at hi
  rcases hi with rfl | rfl | rfl | rfl | rfl | rfl | rfl <;> cases org <;> rfl

theorem opOf_ne_none {a v : Half} {i : Instr} (hi : i ∈ hostCommands a v) : opOf i ≠ .none := by
  revert i
  simp [hostCommands, opOf]

@[simp] theorem exchangeCount_append (es fs : List Event) :
    exchangeCount (es ++ fs) = exchangeCount es + exchangeCount fs := by
  simp [exchangeCount]

@[simp] theorem keep_ended (st : SeqStep) (s : State) : (st.keep s).ended = s.ended := by
  rcases st with _ | _ | _ | (_ | _) | _ | _ <;> rfl
@[simp] theorem keep_responsive (st : SeqStep) (s : State) : (st.keep s).responsive = s.responsive := by
  rcases st with _ | _ | _ | (_ | _) | _ | _ <;> rfl
@[simp] theorem act_ended (st : SeqStep) (s : State) : (st.act s).ended = s.ended := by cases st <;> rfl
@[simp] theorem act_inputs (st : SeqStep) (s : State) : (st.act s).inputs = s.inputs := by cases st <;> rfl
@[simp] theorem act_responsive (st : SeqStep) (s : State) : (st.act s).responsive = s.responsive := by
  cases st <;> rfl

/-- A step that transfers nothing records no exchange (R38). -/
@[simp] theorem act_exchangeCount (st : SeqStep) (s : State) :
    exchangeCount (st.act s).trace = exchangeCount s.trace := by
  cases st <;> simp [SeqStep.act, exchangeCount, Event.kind]

/-- What the environment completes depends on the moves to come and on `responsive` alone. -/
theorem answersNext_congr {s t : State} (hin : t.inputs = s.inputs) (hr : t.responsive = s.responsive) (n : Nat) :
    t.answersNext n = s.answersNext n := by
  rw [State.answersNext, State.answersNext, hin, hr]

/-- An answer of the environment is one of the exchanges that it completes. -/
theorem answersNext_of_answer {s t : State} (h : environmentAnswer s = some t) (n : Nat) :
    t.answersNext n = s.answersNext (n + 1) := by
  rcases environmentAnswer_cases h with ⟨rx, rest, hin, rfl⟩ | ⟨hr, rfl⟩
  · simp [State.answersNext, hin, completes]
  · simp [State.answersNext, hr, completes_responsive]

/-! ### A run whose exchanges are all answered -/

/-- From `s` to `t` the operation in flight made `n` exchanges, and the environment completes `m` more. -/
structure Made (s t : State) (n m : Nat) : Prop where
  ended : t.ended = s.ended
  exchanges : exchangeCount t.trace = exchangeCount s.trace + n
  answers : t.answersNext m = true

theorem xferTake_made (tx : Byte) {s : State} {m : Nat} (h : s.answersNext m = true) : Made s (xferTake tx s) 1 m :=
  ⟨rfl, by simp [exchangeCount, Event.kind], h⟩

/-- An exchange under way, whether over already or not. -/
theorem xferFinish_made (tx : Byte) {s : State} {m : Nat} (h : s.answersNext (m + 1) = true) :
    ∃ t, xferFinish tx s = .completed t ∧ Made s t 1 m := by
  rcases xferFinish_cases tx s with ⟨-, hx⟩ | ⟨-, u, ha, hx⟩ | ⟨-, ha, -⟩
  · exact ⟨_, hx, xferTake_made tx (answersNext_mono h m.le_succ)⟩
  · obtain ⟨hended, hcount, hanswers⟩ := xferTake_made tx ((answersNext_of_answer ha m).trans h)
    obtain ⟨b, rest, n, -, rfl⟩ := environmentAnswer_shape ha
    exact ⟨_, hx, hended, hcount, hanswers⟩
  · obtain ⟨draw, rest, n, hsome, -⟩ := environmentAnswer_of_completes h
    rw [ha] at hsome
    cases hsome

/-- A transfer from any of its sub-steps makes one exchange (R114). -/
theorem transferByte_made (tx : Byte) {s : State} {m : Nat} (h : s.answersNext (m + 1) = true) :
    ∃ t, transferByte tx s = .completed t ∧ Made s t 1 m := by
  cases hsub : s.seq.sub with
  | cfg =>
    obtain ⟨t, ht, hended, hcount, hanswers⟩ := xferFinish_made tx (s := xferLoad tx (xferConfigure s)) h
    exact ⟨t, (transferByte_from_start tx hsub).trans ht, hended, by simpa [exchangeCount, Event.kind] using hcount,
      hanswers⟩
  | load =>
    obtain ⟨t, ht, hended, hcount, hanswers⟩ := xferFinish_made tx (s := xferLoad tx s) h
    exact ⟨t, by rw [transferByte_load hsub, transferByte_wait rfl, ht], hended, hcount, hanswers⟩
  | wait => rw [transferByte_wait hsub]; exact xferFinish_made tx h
  | take => exact ⟨_, transferByte_take hsub tx, xferTake_made tx (answersNext_mono h m.le_succ)⟩

/-- A step of a step list, when the environment answers its exchange and those of the steps `rest` after it. -/
theorem performStep_made {st : SeqStep} {rest : List SeqStep} {s : State}
    (h : s.answersNext ((st :: rest).countP SeqStep.exchanges) = true) :
    ∃ t, performStep st s = .completed t ∧
      Made s t ([st].countP SeqStep.exchanges) (rest.countP SeqStep.exchanges) := by
  cases hst : st.sends s with
  | none =>
    rw [countP_exchanges_act hst] at h
    exact ⟨_, performStep_act hst, by simp, by simp [countP_exchanges_act hst],
      (answersNext_congr (act_inputs st s) (act_responsive st s) _).trans h⟩
  | some tx =>
    rw [countP_exchanges_transfer hst] at h
    obtain ⟨t, ht, hended, hcount, hanswers⟩ := transferByte_made tx h
    exact ⟨st.keep t, by rw [performStep_transfer hst, ht], by simpa using hended,
      by simpa [countP_exchanges_transfer hst] using hcount,
      (answersNext_congr (keep_inputs st t) (keep_responsive st t) _).trans hanswers⟩

/-- From `s` the operation in flight ran to its end in `t`, making `n` exchanges (R121). -/
structure Finished (s t : State) (n : Nat) : Prop where
  op : t.seq.op = .none
  ended : t.ended = s.ended + 1
  exchanges : exchangeCount t.trace = exchangeCount s.trace + n

theorem runSteps_finished (l : List SeqStep) {s : State} (h : s.answersNext (l.countP SeqStep.exchanges) = true) :
    Finished s (runSteps l s) (l.countP SeqStep.exchanges) := by
  induction l generalizing s with
  | nil => exact ⟨rfl, rfl, rfl⟩
  | cons st rest ih =>
    obtain ⟨t, ht, hmade⟩ := performStep_made h
    obtain ⟨hop, hended, hcount⟩ := ih (s := nextStep t) hmade.answers
    rw [runSteps_completed ht]
    have hsum : (st :: rest).countP SeqStep.exchanges =
        [st].countP SeqStep.exchanges + rest.countP SeqStep.exchanges := List.countP_append (l₁ := [st])
    exact ⟨hop, by rw [hended, nextStep_ended, hmade.ended],
      by rw [hcount, nextStep_trace, hmade.exchanges, hsum, Nat.add_assoc]⟩

/-- The operation in flight ends from any position when the environment completes the exchanges left (R167). -/
theorem runOperation_finished {s : State} (h : s.answersNext s.exchangesLeft = true) :
    Finished s (runOperation s) s.exchangesLeft := by
  rw [exchangesLeft_eq] at h ⊢
  exact runSteps_finished s.stepsLeft h

theorem runOperation_ready {s : State} {n : Nat} (hc : s.constructed = true) (h : Finished s (runOperation s) n) :
    (runOperation s).ready = true :=
  ready_iff.2 ⟨(sameSetting_keptByOps.runOperation s).constructed.trans hc, h.op⟩

/-- Settles O31: the steps left make their exchanges, and what the host presents before is refused. -/
theorem responsiveOperationsEnd : Obligations.ResponsiveOperationsEnd := by
  refine ⟨fun s hresp hr a v i hi => ?_, fun s hf hin h => ?_, fun s presented rest hf hin hp hrest h => ?_⟩
  · obtain ⟨a', v', hexec⟩ := exec_hostCommand hi s
    set u := takeCommand (opOf i) { s with addr := a', value := v' }
    have hall : u.answersNext u.exchangesLeft = true := by
      have hu : u.responsive = true := hresp
      rw [State.answersNext, hu, completes_responsive]
    have hfin := runOperation_finished hall
    refine ⟨_, hexec.trans (issue_ready hr), runOperation_ready (ready_iff.1 hr).1 hfin, hfin.ended,
      (stepList_bounds _ _).1, hfin.exchanges.trans_le (Nat.add_le_add_left (exchangesLeft_le u) _)⟩
  · have hfin := runOperation_finished h
    exact ⟨_, step_runs_on hf hin, runOperation_ready (inFlight_iff.1 hf).1 hfin, hfin.ended, hfin.exchanges,
      exchangesLeft_le s, stepsLeft_length_le s⟩
  · set u : State := { s with inputs := rest }
    have hfin : Finished u (runOperation u) s.exchangesLeft := runOperation_finished h
    have hstep : step u = .next (runOperation u) := step_runs_on hf hrest
    refine ⟨runOperation u, ?_, runOperation_ready (s := u) (inFlight_iff.1 hf).1 hfin, hfin.ended, hfin.exchanges⟩
    rw [run_presentations hp 1 hf hin, run_succ_of_step (M := Sys2Proof.core) hstep]
    rfl

/-! ### A run whose exchanges are not all answered -/

/-- Chip-select is asserted if the completed steps have left a bracket open (R118). -/
def State.selected (s : State) : Prop := (openBracket s.stepsDone).isSome = true → s.cs = .asserted

theorem State.selected.act {s : State} (h : s.selected) {st : SeqStep} {rest : List SeqStep}
    (hl : s.stepsLeft = st :: rest) (hst : st.sends s = none) : (nextStep (st.act s)).selected := by
  obtain ⟨-, hdone⟩ := (samePosition_act st s).nextStep hl
  rw [State.selected, hdone, openBracket_append]
  cases st with
  | csa kind => exact fun _ => rfl
  | csd => exact fun hopen => absurd hopen Bool.false_ne_true
  | cfgb => exact h
  | res => exact h
  | tx e => cases hst
  | rx d => cases hst

/-- Exchanges are made with chip-select asserted (R118). -/
theorem State.selected.asserted {s : State} (h : s.selected) {st : SeqStep} {rest : List SeqStep}
    (hl : s.stepsLeft = st :: rest) {tx : Byte} (hst : st.sends s = some tx) : s.cs = .asserted := by
  obtain ⟨n, hn, -⟩ := openBracket_of_sends (stepsLeft_cons hl).1 hst
  exact h (by rw [hn]; rfl)

/-- From `s` the operation in flight came to a wait in `t` (R164). -/
structure Waits (s t : State) : Prop where
  op : t.seq.op = s.seq.op
  form : t.waitForm
  ended : t.ended = s.ended

/-- A transfer step whose exchange is not answered waits where its sub-step `LOAD` left it (R114). -/
theorem waits_load {s : State} (hcs : s.cs = .asserted) {st : SeqStep} {rest : List SeqStep}
    (hl : s.stepsLeft = st :: rest) {tx : Byte} (hst : st.sends s = some tx) :
    Waits s (xferLoad tx (xferConfigure s)) :=
  ⟨rfl, ⟨rfl, rfl, hcs, rfl, configured_inMode0 s.bus, st, (stepsLeft_cons hl).1, (sends_congr st rfl rfl).trans hst⟩,
    rfl⟩

theorem runSteps_waits (l : List SeqStep) {s : State} (hsub : s.seq.sub = .cfg) (hl : s.stepsLeft = l)
    (hs : s.selected) (h : s.answersNext (l.countP SeqStep.exchanges) = false) : Waits s (runSteps l s) := by
  induction l generalizing s with
  | nil => cases h
  | cons st rest ih =>
    cases hst : st.sends s with
    | none =>
      rw [countP_exchanges_act hst] at h
      have hsame := samePosition_act st s
      have hw := ih (s := nextStep (st.act s)) rfl (hsame.nextStep hl).1 (hs.act hl hst)
        ((answersNext_congr (act_inputs st s) (act_responsive st s) _).trans h)
      rw [runSteps_completed (performStep_act hst)]
      exact ⟨hw.op.trans hsame.op, hw.form, hw.ended.trans (act_ended st s)⟩
    | some tx =>
      rw [countP_exchanges_transfer hst] at h
      have hcs := hs.asserted hl hst
      have hperform := performStep_transfer hst
      rw [transferByte_from_start tx hsub] at hperform
      cases ha : environmentAnswer (xferLoad tx (xferConfigure s)) with
      | none =>
        rw [xferFinish_unanswered tx rfl ha] at hperform
        rw [runSteps_waiting hperform]
        exact waits_load hcs hl hst
      | some u =>
        rw [xferFinish_answered tx rfl ha] at hperform
        rw [runSteps_completed hperform]
        have hans := (answersNext_of_answer ha (rest.countP SeqStep.exchanges)).trans h
        obtain ⟨b, inputs, m, -, rfl⟩ := environmentAnswer_shape ha
        set t := st.keep (xferTake tx (busComplete b
          { xferLoad tx (xferConfigure s) with inputs := inputs, draws := m })) with ht
        have hsame : SamePosition s t := by constructor <;> simp [ht]
        have hselected : (nextStep t).selected := fun _ => by simpa [ht] using hcs
        have hw := ih (s := nextStep t) rfl (hsame.nextStep hl).1 hselected
          ((answersNext_congr (by simp [ht]) (by simp [ht]) _).trans hans)
        exact ⟨hw.op.trans hsame.op, hw.form, hw.ended.trans (by simp [ht])⟩

/-- Settles O32: a command starts outside every bracket, and the run of its step list comes to a wait. -/
theorem unansweredOperationsHang : Obligations.UnansweredOperationsHang := by
  intro s a v hr i hi h
  obtain ⟨a', v', hexec⟩ := exec_hostCommand hi s
  set u := takeCommand (opOf i) { s with addr := a', value := v' }
  rw [exchangesOf_eq hi] at h
  have hw : Waits u (runOperation u) := runSteps_waits _ rfl rfl (fun hopen => absurd hopen Bool.false_ne_true) h
  have hc : (runOperation u).constructed = true :=
    (sameSetting_keptByOps.runOperation u).constructed.trans (ready_iff.1 hr).1
  exact ⟨_, hexec.trans (issue_ready hr), inFlight_iff.2 ⟨hc, hw.op ▸ opOf_ne_none hi⟩, hw.op, hw.form, hw.ended⟩

/-! ### The hang -/

/-- The block waits for an exchange that no move to come completes: the host presents, and nobody else moves. -/
structure State.hangs (s : State) : Prop where
  inFlight : s.inFlight = true
  form : s.waitForm
  silent : s.responsive = false
  presentations : ∀ x ∈ s.inputs, x.fromHost

/-- The transfer step that a waiting block stands at. -/
theorem transfers_of_waitForm {s : State} (hf : s.inFlight = true) (h : s.waitForm) :
    ∃ st rest, s.transfers st rest s.bus.txd := by
  obtain ⟨-, -, -, -, -, st, hget, hst⟩ := h
  obtain ⟨hk, rfl⟩ := List.getElem?_eq_some_iff.1 hget
  exact ⟨_, _, hf, List.drop_eq_getElem_cons hk, hst⟩

/-- Without an answer a waiting operation stays where it is (R164). -/
theorem runOperation_unanswered {s : State} (hf : s.inFlight = true) (h : s.waitForm)
    (ha : environmentAnswer s = none) : runOperation s = s := by
  obtain ⟨st, rest, htr⟩ := transfers_of_waitForm hf h
  obtain ⟨-, hsub, -, hd, -, -⟩ := h
  rw [runOperation_eq_runSteps, htr.left]
  exact runSteps_waiting (by rw [performStep_transfer htr.sends, transferByte_wait hsub, xferFinish_unanswered _ hd ha])

/-- A step of a hanging block takes the next presentation away, if there is one, and does nothing else. -/
theorem State.hangs.step {s : State} (h : s.hangs) : step s = .next { s with inputs := s.inputs.drop 1 } := by
  obtain ⟨hf, hform, hsilent, hp⟩ := h
  cases hin : s.inputs with
  | nil =>
    have ha : environmentAnswer s = none := environmentAnswer_none (by simp [hin]) hsilent
    rw [step_runs_on hf (.inl hin), runOperation_unanswered hf hform ha, List.drop_nil, ← hin]
  | cons x rest => exact step_refuses_fromHost hf (hp x (hin ▸ List.mem_cons_self)) hin

theorem State.hangs.drop {s : State} (h : s.hangs) (n : Nat) :
    ({ s with inputs := s.inputs.drop n } : State).hangs :=
  ⟨h.inFlight, h.form, h.silent, fun x hx => h.presentations x (List.mem_of_mem_drop hx)⟩

theorem State.hangs.run {s : State} (h : s.hangs) (n : Nat) :
    Host.Core.run Sys2Proof.core n s = .next ({ s with inputs := s.inputs.drop n } : State) := by
  induction n generalizing s with
  | zero => rfl
  | succ n ih =>
    rw [run_succ_of_step (M := Sys2Proof.core) h.step, ih (h.drop 1), List.drop_drop, Nat.add_comm 1 n]

/-- Settles O33: the block has no move in `WAIT` until `BUS.DONE` is set, and each step takes one presentation. -/
theorem hangIsForever : Obligations.HangIsForever := by
  intro s n hf hform hsilent hin
  have hp : ∀ x ∈ s.inputs, x.fromHost := by
    intro x hx
    rcases hin x hx with ⟨op, addr, value, rfl⟩ | ⟨line, org, rfl⟩ <;> trivial
  obtain ⟨st, rest, htr⟩ := transfers_of_waitForm hf hform
  have ⟨hphase, hsub, hcs, hdone, _, _⟩ := hform
  refine ⟨State.hangs.run ⟨hf, hform, hsilent, hp⟩ n, by simp [htr.blockStep_eq, hsub, hdone], fun rx => ?_,
    hphase, hcs⟩
  have htr' : (busComplete rx s).transfers st rest s.bus.txd := htr.of_same ⟨rfl, rfl, rfl, rfl⟩ rfl rfl
  simp [htr'.blockStep_eq, hsub, BusController.finishExchange]

end Sys2Proof.Machine

/-! ## Reset and hazards: `construct`, and the write bracket that `writeValue` closes

Proofs about spec/70_reset_and_hazards.md. The order: the reset event of a block not yet constructed and of a
constructed one, then the sequence of R187. -/

namespace Sys2Proof.Machine

/-! ### The reset event -/

/-- The line going low is no event to a device that is not selected (R67). -/
theorem react_deselect_unselected {d : RefDev} (h : d.sel = false) : d.react (.cs false) = d := by
  cases ha : d.attached with
  | true => simp [RefDev.react, ha, h]
  | false => exact react_detached ha _

/-- Settles O19: the fields of `constructed`, whose one event an unselected device does not react to. -/
theorem constructResult : Obligations.ConstructResult := fun _ line org hc =>
  ⟨_, exec_construct hc line org, rfl, rfl, rfl, rfl, rfl, rfl, rfl, rfl, rfl, react_deselect_unselected⟩

/-- `construct` on a constructed block is refused (R183). -/
theorem exec_construct_refused {s : State} (h : s.constructed = true) (line : LineId) (org : Org) :
    exec (.construct line org) s = .next s := by
  simp [exec, execConstruct, h]

/-- Settles O20: whether the block is idle or in flight makes no difference, it is constructed. -/
theorem secondConstructRefused : Obligations.SecondConstructRefused := fun _ line org hc =>
  ⟨exec_construct_refused hc line org, fun _ hin => step_refuses_reset hin hc⟩

/-! ### The bracket that `writeValue` closes -/

/-- The enable bracket sets the latch of the attached device, and leaves a block that takes the next command and the
answers it has not used (R53, R130). -/
theorem exec_enableWrite_served {s : State} (hr : s.ready = true) (hs : s.served) {n : Nat}
    (h : s.answersNext (2 + n) = true) :
    ∃ t, exec .enableWrite s = .next t ∧ SameSetting s t ∧ t.ready = true ∧ t.dev.wel = true ∧
      t.answersNext n = true := by
  obtain ⟨ha, ho⟩ := hs
  obtain ⟨t, rx, hb, hn, hrun⟩ := run_frameBracket .enableWrite .enable s (fun _ => rfl) h
  rw [frameBytes_enable, ← ho] at hb
  have hexec : exec .enableWrite s = .next (endOperation t) := by
    rw [← hrun]
    exact issue_ready hr
  have hdev : t.dev = { s.dev with wel := true, sel := false, tb := enableBytes s.dev.org } :=
    hb.dev.trans (bracket_enable ha hb.len (command_holding_enable s.dev))
  exact ⟨_, hexec, hb.ranToEnd.setting, hb.ranToEnd.ready hr, congrArg RefDev.wel hdev, hn⟩

/-- Settles O46: `enableWrite` sets the latch, the disable bracket that ends `writeValue` clears it, and with the latch
clear the erase bracket changes no byte. -/
theorem writeClosesTheBracket : Obligations.WriteClosesTheBracket := by
  intro s a v b hr hs h
  obtain ⟨t, henable, hset, hrt, hlatch, hnext⟩ := exec_enableWrite_served hr hs h
  rw [← hset.cfg] at hnext
  obtain ⟨u, hwrite, hwrote, hlast⟩ := exec_writeValue_served a v hrt (hset.served hs) hnext
  obtain ⟨w, herase, hran⟩ := exec_eraseOne hwrote.ready b hlast
  exact ⟨t, u, w, henable, hwrite, herase, hlatch, hwrote.wel, hran.mem_protected hwrote.wel⟩

end Sys2Proof.Machine
